-- ==== Sys2Proof/Word.lean ====
section
/-! DEFINITION. The word types of the WCPP codec block and the width of an entry's value. -/

namespace Sys2Proof

/-- One byte of `SV`, of `DSO`, of the entry window or of the stuffed stream. -/
abbrev Byte := BitVec 8

/-- A binary16 pattern (30_encoding.md R80). -/
abbrev Half := BitVec 16

/-- The ports `CMD`, `A` and `R`, the register `SV_BUF` and a binary32 pattern (R70, R76, R77, R20, R81). -/
abbrev Word := BitVec 32

/-- The five-byte windows `B` and `RB` (R76, R77). -/
abbrev Window := BitVec 40

/-- The number of value bytes of an entry: "0, 1, 2 or 4" (00_scope.md section 3, R84). -/
inductive Width where
  | w0
  | w1
  | w2
  | w4
deriving DecidableEq, Repr

end Sys2Proof
end

