-- ==== Sys2Proof/Config.lean ====
section
/-! DEFINITION. The block's configuration parameters (00_scope.md R3) and its one free value, the
contents of a `DSO` byte that nothing has written since reset (10_state.md R31). -/

namespace Sys2Proof

/-- `P_CLAMP`: the exponent clamp of `fp32_to_fp16` (R3, R153, R154). -/
inductive Clamp where
  | asWritten
  | corrected
deriving DecidableEq, Repr

/-- `P_W1MASK`: the mask the entry encoder tests to choose width 1, 0x000000FF or 0x000000FE (R3, R173). -/
inductive W1Mask where
  | ff
  | fe
deriving DecidableEq, Repr

/-- `P_COBS_FF`: whether a length byte of 0xFF suppresses the next substituted zero (R3, R202). -/
inductive CobsFF where
  | plain
  | classic
deriving DecidableEq, Repr

/-- The three parameters, "fixed per instance" (R3, R29). Every claim over all states holds for every value. -/
structure Params where
  clamp  : Clamp
  w1mask : W1Mask
  cobsFF : CobsFF
deriving DecidableEq, Repr

/-- The defaults the spec chooses (R3). -/
def Params.default : Params := { clamp := .asWritten, w1mask := .ff, cobsFF := .plain }

/-- FREE VALUE (log 5). What `DSO.byte[index]` holds when nothing has written it since the `epoch`-th
reset: "unspecified (any value)" (R31). It has no body, so no proof can see it. -/
opaque Config.dsoUnspecified (epoch index : Nat) : Byte

end Sys2Proof
end

