-- ==== Sys2Proof/Machine/State.lean ====
section
/-! DEFINITION. The state of the block as plain data (10_state.md), the reasons a step stops, and the
state after reset (R31, R280). -/

namespace Sys2Proof.Machine

/-- The fault causes of 60_exceptions.md R250. Taking one of these is a NEXT state (R252): the block goes on. -/
inductive FaultCode where
  | illegalCommand
  | unsupportedVersion
  | truncatedInput
  | frameOverflow
deriving DecidableEq, Repr

/-- `STATUS` (R28) by its fields; its other bits are hardwired to 0 and so hold nothing (log 8). The
32-bit word is `Status.word` in Machine/Flags.lean. -/
structure Status where
  /-- Bits 3:0, the code of the first fault since the last clear. -/
  fcode : BitVec 4
  /-- Bit 4, 1 if any command has faulted since the last clear. -/
  fpend : Bool
  /-- Bits 15:8, `CMD.OPC` of the first faulting command since the last clear. -/
  fopc  : Byte
deriving DecidableEq, Repr

/-- `STATUS = 0x00000000`: its reset value, and what STAT_CLR writes (R28, R31, R233). -/
def Status.zero : Status := { fcode := 0, fpend := false, fopc := 0 }

/-- One command as the host issues it: the command word with the operand ports sampled with it (R70, R76). -/
structure Command where
  cmd : Word
  a   : Word
  b   : Window
deriving DecidableEq, Repr

/-- What the operand ports carry while a command runs: the values sampled with it (R76). -/
structure Operands where
  a : Word
  b : Window
deriving DecidableEq, Repr

/-- The response ports (R77). "Every response field that a command's rule does not name is 0": the
field defaults. -/
structure Response where
  r     : Word := 0
  rb    : Window := 0
  rlen  : BitVec 3 := 0
  rst   : BitVec 4 := 0
  fv    : Bool := false
  flen  : BitVec 9 := 0
  fdata : List Byte := []
deriving DecidableEq, Repr

/-- One fault in the model's own record (92_eei_decisions.md D7; log 9). -/
structure FaultRecord where
  code : FaultCode
  opc  : Byte
deriving DecidableEq, Repr

/-- The bytes of a byte space that have been written since reset: addresses strictly rising, one entry
an address. An unlisted address holds nothing the model knows (log 5). -/
abbrev Memory := List Host.Cell

/-- Why the machine stops. The faults of 60_exceptions.md are no stops: they are next states (R252). -/
inductive Fault where
  /-- Raised by DS_PUSH when `DS_WC > 256`, so that an index outside 0..255 of `DSO` would be written
  or read: "A rule never uses an index outside the array" (00_scope.md R7). No run reaches such a
  state (R25). Safe: the model stops where the spec gives no behaviour (log 6). -/
  | dsoIndexOutsideArray
deriving DecidableEq, Repr

/-- Why the machine has no meaning for a command. -/
inductive Refusal where
  /-- Raised by exec for a command whose meaning is not written yet; no arm raises it now. Safe. -/
  | notModelled (mnemonic : String)
deriving DecidableEq, Repr

/-- The block. The first eight fields are the spec's state elements (10_state.md); `params` is fixed
for the instance (R3); `pending` is what the host has issued; `operands` and `resp` are the ports, which
"hold no value between steps" (R32): a step releases the operands it sampled, and the response it leaves
is its own output, none where no command ran (log 3); the last two are the model's own. -/
structure State where
  /-- `SV_BUF` (R20). -/
  svBuf    : Word
  /-- `SV_SIZE` (R21). -/
  svSize   : BitVec 3
  /-- `ENT_TYPE` (R23). -/
  entType  : BitVec 7
  /-- `DSO` (R24): the bytes written since reset. -/
  dso      : Memory
  /-- `DS_WC` (R25). -/
  dsWc     : BitVec 9
  /-- `DS_REST` (R26). -/
  dsRest   : BitVec 8
  /-- `DS_ZF` (R27). -/
  dsZf     : Bool
  /-- `STATUS` (R28). -/
  status   : Status
  /-- `P_CLAMP`, `P_W1MASK`, `P_COBS_FF` (R3; log 4). -/
  params   : Params
  /-- The commands the host has issued and the block has not taken, oldest first (R59; log 1). -/
  pending  : List Command
  /-- The operand ports `A` and `B` while a command runs (R76); none between steps (R32). -/
  operands : Option Operands
  /-- The response of the command the last step ran (R77); none if it ran none (R32). -/
  resp     : Option Response
  /-- MODEL: how many resets have made `DSO` unspecified; it keys the free value (log 5). -/
  dsoEpoch : Nat
  /-- MODEL: every fault so far, oldest first; no command clears it (D7; log 9). -/
  faultLog : List FaultRecord
deriving DecidableEq, Repr

/-- The state after power-on (R31, R280), with the default parameters (R3), no command issued yet
(log 1), no value on the ports (R32), and `DSO` unspecified (log 5). -/
def State.reset : State where
  svBuf    := 0x00000000#32
  svSize   := 0#3
  entType  := 0x40#7
  dso      := []
  dsWc     := 0#9
  dsRest   := 0#8
  dsZf     := false
  status   := Status.zero
  params   := Params.default
  pending  := []
  operands := none
  resp     := none
  dsoEpoch := 0
  faultLog := []

end Sys2Proof.Machine
end

