-- ==== Sys2Proof/Machine/Flags.lean ====
section
/-! DEFINITION. The flag computations: the destuffer's `DS_ZF`, "the only flag" (00_scope.md R9), and
the fault record `STATUS` (10_state.md R28, 60_exceptions.md R250, R253). -/

namespace Sys2Proof.Machine

/-- `DS_ZF` after a non-zero length byte `b` (R27, R202): set under PLAIN, and under CLASSIC set by
every length byte but 0xFF. -/
def zeroFlagAfterLength (p : CobsFF) (b : Byte) : Bool :=
  match p with
  | .plain => true
  | .classic => b != 0xFF#8

/-- The code a fault puts on `RST` and in `STATUS.FCODE` (R250). -/
def faultCode : FaultCode → BitVec 4
  | .illegalCommand => 1#4
  | .unsupportedVersion => 2#4
  | .truncatedInput => 3#4
  | .frameOverflow => 4#4

/-- The 32-bit `STATUS` register: `FCODE` in 3:0, `FPEND` in 4, `FOPC` in 15:8, all other bits 0 (R28). -/
def statusWord (st : Status) : Word :=
  st.fcode.setWidth 32 ||| ((BitVec.ofBool st.fpend).setWidth 32 <<< 4) ||| (st.fopc.setWidth 32 <<< 8)

/-- Fault entry's update of `STATUS`: the first fault since the last clear is kept (R253). -/
def recordFault (code : FaultCode) (opc : Byte) (st : Status) : Status :=
  if st.fpend then st else { fcode := faultCode code, fopc := opc, fpend := true }

end Sys2Proof.Machine
end

