-- ==== Sys2Proof/Machine/Ops.lean ====
section
/-! DEFINITION. The operations the commands share: bytes of words, `MemRead` and `MemWrite` over the
spaces `SV` and `DSO` (00_scope.md R7, 20_memory.md R50), ending a command with a response
(30_encoding.md R77), taking a fault (60_exceptions.md R252, R253), and the ports around a command. -/

namespace Sys2Proof.Machine

/-- Byte `k` of `SV_BUF`: `SV.byte[k]` is `SV_BUF[8k+7:8k]` (R7, R20). -/
def svByte (buf : Word) (k : Nat) : Byte := buf.extractLsb' (8 * k) 8

/-- `SV.byte[k] <- v`, on the register that holds the space (R7). -/
def svSetByte (buf : Word) (k : Nat) (v : Byte) : Word :=
  (buf &&& ~~~(0xFF#32 <<< (8 * k))) ||| (v.setWidth 32 <<< (8 * k))

/-- `MemRead(SV, 0, n)`, little-endian (R7, R51). -/
def svRead : Nat → Word → Word
  | 0, _ => 0
  | n + 1, buf => svRead n buf ||| ((svByte buf n).setWidth 32 <<< (8 * n))

/-- `MemWrite(SV, 0, n, v)`, little-endian (R7, R51): the buffer after it. -/
def svWrite : Nat → Word → Word → Word
  | 0, _, buf => buf
  | n + 1, v, buf => svSetByte (svWrite n v buf) n (svByte v n)

/-- The bytes of a width (R84, R174). -/
def widthBytes : Width → Nat
  | .w0 => 0
  | .w1 => 1
  | .w2 => 2
  | .w4 => 4

/-- Bytes on a five-byte port, the first at bits 7:0 and the unlisted ones 0 (R77, R175). -/
def windowOfBytes : List Byte → Window
  | [] => 0
  | b :: bs => b.setWidth 40 ||| (windowOfBytes bs <<< 8)

/-- The size of `DSO` (R24). -/
def dsoSize : Nat := 256

/-- The byte a memory lists at an address, if any. -/
def Memory.read : Memory → Nat → Option Byte
  | [], _ => none
  | (k, x) :: m, a => if a = k then some x else Memory.read m a

/-- Write one byte, keeping the addresses rising and one entry an address. -/
def Memory.write : Memory → Nat → Byte → Memory
  | [], a, v => [(a, v)]
  | (k, x) :: m, a, v =>
    if a < k then (a, v) :: (k, x) :: m
    else if a = k then (a, v) :: m
    else (k, x) :: Memory.write m a v

/-- Every address of the memory is above `lo` and the addresses rise strictly. -/
def Memory.risingAbove : Nat → Memory → Bool
  | _, [] => true
  | lo, (k, _) :: m => decide (lo < k) && Memory.risingAbove k m

/-- The canonical form of `DSO`: addresses strictly rising, all within the array. No entry can equal
what an unlisted address reads as, since that is no value the model knows (log 5). -/
def Memory.wf : Memory → Bool
  | [] => true
  | (k, x) :: m => Memory.risingAbove k m && ((k, x) :: m).all fun c => decide (c.1 < dsoSize)

/-- `DSO.byte[i]` (R24): the byte written, or the free value of a byte that nothing has written since
the last reset (R31; log 5). -/
def dsoByte (s : State) (i : Nat) : Byte :=
  match s.dso.read i with
  | some v => v
  | none => Config.dsoUnspecified s.dsoEpoch i

/-- The command completes: its response is on the ports (R77). -/
def complete (r : Response) (s : State) : Host.Outcome State Fault Refusal :=
  .next { s with resp := some r }

/-- What the response ports carry after a step: the response of its command, and nothing driven where it
ran none (log 2). -/
def State.response (s : State) : Response := s.resp.getD {}

/-- TAKING A FAULT (R8, R252, R253). Only `STATUS` changes, and only if no fault is pending in it; the
response carries the code and nothing else; there is no vector, no saved pc and no mode (R256). The
model's own record grows (D7). -/
def raise (code : FaultCode) (opc : Byte) (s : State) : State :=
  { s with
    status := recordFault code opc s.status
    resp := some { rst := faultCode code }
    faultLog := s.faultLog ++ [{ code := code, opc := opc }] }

/-- The return from a fault: there is no trap return, and clearing the record is all there is (R257). -/
def clearStatus (s : State) : State := { s with status := Status.zero }

/-- Every state element takes its reset value (R31, R231); `DSO` becomes unspecified (log 5). The
parameters and the ports are no state elements (R3, R32) and stay. -/
def resetElements (s : State) : State :=
  { s with
    svBuf := 0x00000000#32
    svSize := 0#3
    entType := 0x40#7
    dso := []
    dsWc := 0#9
    dsRest := 0#8
    dsZf := false
    status := Status.zero
    dsoEpoch := s.dsoEpoch + 1 }

/-- The block takes the oldest issued command and samples its operand ports (R59, R76). -/
def sample (c : Command) (rest : List Command) (s : State) : State :=
  { s with pending := rest, operands := some { a := c.a, b := c.b } }

/-- The command has run: the operand ports hold no value between steps (R32). -/
def releaseOperands (s : State) : State := { s with operands := none }

/-- The end of a command's step. -/
def endStep : Host.Outcome State Fault Refusal → Host.Outcome State Fault Refusal
  | .next s => .next (releaseOperands s)
  | .fault f => .fault f
  | .refused r => .refused r

/-- The block waits for a command: it keeps its state (R58, R260), and no port holds a value (R32; log 2). -/
def idle (s : State) : State := { s with operands := none, resp := none }

/-- An illegal command word `w` raises `IllegalCommand`, recording its `OPC` (R71, R75, R253). -/
def illegalCommand (w : BitVec 32) (s : State) : Host.Outcome State Fault Refusal :=
  .next (raise .illegalCommand (w.extractLsb' 0 8) s)

/-- The host drives the command word `w`: on the command waiting at the head of the port, keeping its
operands, or, where none waits, on a new one with operands 0 (log 1). -/
def driveCommandWord (w : Word) (s : State) : State :=
  match s.pending with
  | [] => { s with pending := [{ cmd := w, a := 0, b := 0 }] }
  | c :: rest => { s with pending := { c with cmd := w } :: rest }

end Sys2Proof.Machine
end

