-- ==== Sys2Proof/Machine/Operands.lean ====
section
/-! DEFINITION. The operand forms: the bits of the port `A` a command reads, the rest being "ignored,
not checked" (30_encoding.md R76), and the bytes of the window `B` (R73, R76). -/

namespace Sys2Proof.Machine

/-- The word sampled on port `A`. Where the ports hold no value, between steps (R32), no command runs and
none reads it (log 3). -/
def sampledA : Option Operands → Word
  | some o => o.a
  | none => 0

/-- The five bytes sampled on window `B` (log 3). -/
def sampledB : Option Operands → Window
  | some o => o.b
  | none => 0

/-- Port `A` as sampled with the command being executed (R76). -/
def State.portA (s : State) : Word := sampledA s.operands

/-- Window `B` as sampled with the command being executed (R76). -/
def State.portB (s : State) : Window := sampledB s.operands

/-- `A[7:0]`: SV_WR_U8, SV_WR_I8, DS_PUSH (R101, R102, R205). -/
def operandByte (s : State) : Byte := s.portA.extractLsb' 0 8

/-- `A[15:0]`: SV_WR_U16, SV_WR_I16, CV_H2F (R103, R104, R160). -/
def operandHalf (s : State) : Half := s.portA.extractLsb' 0 16

/-- `A[31:0]`: the 32-bit writes, SV_WR_F16, CV_F2H (R105 to R108, R161). -/
def operandWord (s : State) : Word := s.portA

/-- `A[6:0]`: ENT_WR_TYPE (R171). -/
def operandChar (s : State) : BitVec 7 := s.portA.extractLsb' 0 7

/-- `B.byte(k)` is `B[8k+7:8k]` (R6, R76); `B.byte(0)` is the tag byte. -/
def windowByte (b : Window) (k : Nat) : Byte := b.extractLsb' (8 * k) 8

/-- `B.byte(1)` to `B.byte(4)`, the value bytes, least significant first (R52, R84). -/
def windowValue (b : Window) : Word := b.extractLsb' 8 32

/-- How many bytes of `B` are valid: "any value of 5 or more means all 5" (R73, R179). -/
def availBytes (avail : Nat) : Nat := min avail 5

end Sys2Proof.Machine
end

