-- ==== Sys2Proof/Machine/Binary16.lean ====
section
/-! DEFINITION. The binary16 converter's two functions on bit patterns, H2F and F2H (41_binary16.md
section 1 and section 2). -/

namespace Sys2Proof.Machine

/-- `s = h[15]` (R80). -/
def halfSign (h : Half) : BitVec 1 := h.extractLsb' 15 1
/-- `e = h[14:10]` (R80). -/
def halfExp (h : Half) : BitVec 5 := h.extractLsb' 10 5
/-- `f = h[9:0]` (R80). -/
def halfFrac (h : Half) : BitVec 10 := h.extractLsb' 0 10

/-- `S = x[31]` (R81). -/
def singleSign (x : Word) : BitVec 1 := x.extractLsb' 31 1
/-- `E = x[30:23]` (R81). -/
def singleExp (x : Word) : BitVec 8 := x.extractLsb' 23 8
/-- `F = x[22:0]` (R81). -/
def singleFrac (x : Word) : BitVec 23 := x.extractLsb' 0 23

/-- `fp16_to_fp32` (R140 to R146). A half zero loses its sign (R141), a half subnormal is not
renormalised (R142), and a NaN keeps its sign and payload (R144). -/
def h2f (h : Half) : Word :=
  let s : Word := (halfSign h).setWidth 32
  let e : Word := (halfExp h).setWidth 32
  let f : Word := (halfFrac h).setWidth 32
  if halfExp h = 0 then
    if halfFrac h = 0 then 0x00000000#32
    else (s <<< 31) ||| (f <<< 13)
  else if halfExp h = 0x1F#5 then
    if halfFrac h = 0 then (s <<< 31) ||| 0x7F800000#32
    else (s <<< 31) ||| 0x7F800000#32 ||| (f <<< 13)
  else (s <<< 31) ||| ((e + 112#32) <<< 23) ||| (f <<< 13)

/-- The half exponent of a normal input, "evaluated on integers": the clamp as the source writes it
(R153) or corrected (R154). -/
def halfExponent (c : Clamp) (exponent : BitVec 8) : Int :=
  match c with
  | .asWritten => max (min ((exponent.toNat : Int) - 127 + 15) 0) 31
  | .corrected => min (max ((exponent.toNat : Int) - 127 + 15) 0) 31

/-- `fp32_to_fp16` (R150 to R156): the fraction is truncated in every branch and nothing rounds. -/
def f2h (c : Clamp) (x : Word) : Half :=
  let s : Half := (singleSign x).setWidth 16
  let f : Half := (singleFrac x >>> 13).setWidth 16
  if singleExp x = 0 then (s <<< 15) ||| f
  else if singleExp x = 0xFF#8 then (s <<< 15) ||| 0x7C00#16 ||| f
  else (s <<< 15) ||| (BitVec.ofInt 16 (halfExponent c (singleExp x)) <<< 10) ||| f

end Sys2Proof.Machine
end

