-- ==== Sys2Proof/Machine/Converter.lean ====
section
/-! DEFINITION. The converter's commands (41_binary16.md section 3). -/

namespace Sys2Proof.Machine

/-- CV_H2F (R160). -/
def execCvH2F (s : State) : Host.Outcome State Fault Refusal := complete { r := h2f (operandHalf s) } s

/-- CV_F2H (R161), under `P_CLAMP`. -/
def execCvF2H (s : State) : Host.Outcome State Fault Refusal :=
  complete { r := (f2h s.params.clamp (operandWord s)).setWidth 32 } s

end Sys2Proof.Machine
end

