-- ==== Sys2Proof/Syntax.lean ====
section
/-! DEFINITION. The commands: one constructor per row of spec/opcode_table.json (30_encoding.md R74). -/

namespace Sys2Proof

/-- A command. Data operands come on the ports `A` and `B` and are no part of it (R70, R76); only
ENT_DEC has fields, `VER` and `AVAIL`, unsigned numbers (R72, R73). -/
inductive Instr where
  | nop
  | sysRst
  | statRd
  | statClr
  | svWrU8
  | svWrI8
  | svWrU16
  | svWrI16
  | svWrU32
  | svWrI32
  | svWrF32
  | svWrF16
  | svRdU8
  | svRdI8
  | svRdU16
  | svRdI16
  | svRdU32
  | svRdI32
  | svRdF32
  | svRdF16
  | svRdSize
  | cvH2F
  | cvF2H
  | entClr
  | entWrType
  | entRdType
  | entEnc
  | entDec (ver avail : Nat)
  | dsRst
  | dsPush
  | dsStat
deriving DecidableEq, Repr

end Sys2Proof
end

