-- ==== Sys2Proof/WellFormed.lean ====
section
/-! DEFINITION. Which command terms have an encoding: the two fields of ENT_DEC fit their three bits
(30_encoding.md R70). -/

namespace Sys2Proof

/-- `VER` and `AVAIL` are "an unsigned number from 0 to 7" (R72) and a three-bit field (R70, R73). A
version of 0 or 5 to 7 is well formed: "the word decodes as ENT_DEC and then faults" (R72). -/
def Instr.wf : Instr → Bool
  | .entDec ver avail => decide (ver < 8) && decide (avail < 8)
  | .nop | .sysRst | .statRd | .statClr => true
  | .svWrU8 | .svWrI8 | .svWrU16 | .svWrI16 | .svWrU32 | .svWrI32 | .svWrF32 | .svWrF16 => true
  | .svRdU8 | .svRdI8 | .svRdU16 | .svRdI16 | .svRdU32 | .svRdI32 | .svRdF32 | .svRdF16 => true
  | .svRdSize | .cvH2F | .cvF2H => true
  | .entClr | .entWrType | .entRdType | .entEnc => true
  | .dsRst | .dsPush | .dsStat => true

/-- A command term that has an encoding. -/
abbrev Instr.WellFormed (i : Instr) : Prop := i.wf = true

end Sys2Proof
end

