-- ==== Sys2Proof/Decode.lean ====
section
/-! DEFINITION. The command word (30_encoding.md R70 to R75): its fields, the decoder, total on every
32-bit word and rejecting by name, and the encoder. -/

namespace Sys2Proof

/-- Why a command word is illegal. Each raises `IllegalCommand` (R71, R75). -/
inductive DecodeError where
  /-- Bit 11 or a bit of 31:15 is set (R70, R71). -/
  | reservedBit
  /-- `VER` or `AVAIL` is non-zero and `OPC` is not ENT_DEC (R71). -/
  | fieldOutsideEntDec
  /-- `OPC` is not listed in R74 (R75). -/
  | unassignedOpcode
deriving DecidableEq, Repr

/-- `CMD.OPC`, bits 7:0 (R70). -/
def opcField (w : Word) : Byte := w.extractLsb' 0 8

/-- `CMD.VER`, bits 10:8 (R70, R72). -/
def verField (w : Word) : BitVec 3 := w.extractLsb' 8 3

/-- `CMD.AVAIL`, bits 14:12 (R70, R73). -/
def availField (w : Word) : BitVec 3 := w.extractLsb' 12 3

/-- The reserved bits of a command word, 11 and 31:15, all others cleared (R70). -/
def reservedBits (w : Word) : Word := w &&& 0xFFFF8800#32

/-- The opcode of ENT_DEC, the one command with fields (R71, R74). -/
def entDecOpcode : Byte := 0x34#8

/-- R74, the system family. -/
def systemOpcodes : List (Byte × Instr) :=
  [(0x00#8, .nop), (0x01#8, .sysRst), (0x02#8, .statRd), (0x03#8, .statClr)]

/-- R74, the Scalar View writes. -/
def scalarWriteOpcodes : List (Byte × Instr) :=
  [(0x10#8, .svWrU8), (0x11#8, .svWrI8), (0x12#8, .svWrU16), (0x13#8, .svWrI16),
   (0x14#8, .svWrU32), (0x15#8, .svWrI32), (0x16#8, .svWrF32), (0x17#8, .svWrF16)]

/-- R74, the Scalar View reads. -/
def scalarReadOpcodes : List (Byte × Instr) :=
  [(0x18#8, .svRdU8), (0x19#8, .svRdI8), (0x1A#8, .svRdU16), (0x1B#8, .svRdI16),
   (0x1C#8, .svRdU32), (0x1D#8, .svRdI32), (0x1E#8, .svRdF32), (0x1F#8, .svRdF16), (0x20#8, .svRdSize)]

/-- R74, the binary16 converter. -/
def converterOpcodes : List (Byte × Instr) := [(0x28#8, .cvH2F), (0x29#8, .cvF2H)]

/-- R74, the entry codec without ENT_DEC. -/
def entryOpcodes : List (Byte × Instr) :=
  [(0x30#8, .entClr), (0x31#8, .entWrType), (0x32#8, .entRdType), (0x33#8, .entEnc)]

/-- R74, the frame destuffer. -/
def destufferOpcodes : List (Byte × Instr) :=
  [(0x40#8, .dsRst), (0x41#8, .dsPush), (0x42#8, .dsStat)]

/-- The opcode map of R74 for every command whose whole word equals its opcode: all but ENT_DEC. -/
def opcodeTable : List (Byte × Instr) :=
  systemOpcodes ++ scalarWriteOpcodes ++ scalarReadOpcodes ++ converterOpcodes ++ entryOpcodes ++ destufferOpcodes

/-- The command without fields that an opcode selects, if R74 assigns it one. -/
def plainCommand (opc : Byte) : Option Instr :=
  (opcodeTable.find? fun row => row.1 == opc).map Prod.snd

/-- The decoder. A word is legal when no reserved bit is set and either `OPC` is ENT_DEC, whose `VER`
and `AVAIL` are free, or the whole word equals a listed opcode (R71, R74, R75). -/
def decode (w : Word) : Except DecodeError Instr :=
  if reservedBits w ≠ 0 then .error .reservedBit
  else if opcField w = entDecOpcode then .ok (.entDec (verField w).toNat (availField w).toNat)
  else match plainCommand (opcField w) with
    | none => .error .unassignedOpcode
    | some i => if verField w = 0 ∧ availField w = 0 then .ok i else .error .fieldOutsideEntDec

/-- A command word given as the opcode table numbers its bits (bit 0 of `CMD` is bit 0 of the row):
the decoder's answer, none where it refuses or where the row would be longer than a command word. -/
def decodeTableWord (nbits w : Nat) : Option Instr :=
  if nbits ≤ 32 then
    match decode (BitVec.ofNat 32 (w % 2 ^ nbits)) with
    | .ok i => some i
    | .error _ => none
  else none

/-- The opcode of a command (R74). -/
def opcodeOf : Instr → Byte
  | .nop => 0x00#8
  | .sysRst => 0x01#8
  | .statRd => 0x02#8
  | .statClr => 0x03#8
  | .svWrU8 => 0x10#8
  | .svWrI8 => 0x11#8
  | .svWrU16 => 0x12#8
  | .svWrI16 => 0x13#8
  | .svWrU32 => 0x14#8
  | .svWrI32 => 0x15#8
  | .svWrF32 => 0x16#8
  | .svWrF16 => 0x17#8
  | .svRdU8 => 0x18#8
  | .svRdI8 => 0x19#8
  | .svRdU16 => 0x1A#8
  | .svRdI16 => 0x1B#8
  | .svRdU32 => 0x1C#8
  | .svRdI32 => 0x1D#8
  | .svRdF32 => 0x1E#8
  | .svRdF16 => 0x1F#8
  | .svRdSize => 0x20#8
  | .cvH2F => 0x28#8
  | .cvF2H => 0x29#8
  | .entClr => 0x30#8
  | .entWrType => 0x31#8
  | .entRdType => 0x32#8
  | .entEnc => 0x33#8
  | .entDec _ _ => 0x34#8
  | .dsRst => 0x40#8
  | .dsPush => 0x41#8
  | .dsStat => 0x42#8

/-- `CMD.VER` of a command: 0 for every command but ENT_DEC (R71, R72). -/
def verOf : Instr → Nat
  | .entDec ver _ => ver
  | .nop | .sysRst | .statRd | .statClr => 0
  | .svWrU8 | .svWrI8 | .svWrU16 | .svWrI16 | .svWrU32 | .svWrI32 | .svWrF32 | .svWrF16 => 0
  | .svRdU8 | .svRdI8 | .svRdU16 | .svRdI16 | .svRdU32 | .svRdI32 | .svRdF32 | .svRdF16 => 0
  | .svRdSize | .cvH2F | .cvF2H => 0
  | .entClr | .entWrType | .entRdType | .entEnc => 0
  | .dsRst | .dsPush | .dsStat => 0

/-- `CMD.AVAIL` of a command: 0 for every command but ENT_DEC (R71, R73). -/
def availOf : Instr → Nat
  | .entDec _ avail => avail
  | .nop | .sysRst | .statRd | .statClr => 0
  | .svWrU8 | .svWrI8 | .svWrU16 | .svWrI16 | .svWrU32 | .svWrI32 | .svWrF32 | .svWrF16 => 0
  | .svRdU8 | .svRdI8 | .svRdU16 | .svRdI16 | .svRdU32 | .svRdI32 | .svRdF32 | .svRdF16 => 0
  | .svRdSize | .cvH2F | .cvF2H => 0
  | .entClr | .entWrType | .entRdType | .entEnc => 0
  | .dsRst | .dsPush | .dsStat => 0

/-- The encoder: the command word of a well-formed command, `OPC | VER << 8 | AVAIL << 12` (R70, R181). -/
def encode (i : Instr) : Word :=
  (opcodeOf i).setWidth 32 ||| (BitVec.ofNat 32 (verOf i) <<< 8) ||| (BitVec.ofNat 32 (availOf i) <<< 12)

end Sys2Proof
end

