-- ==== Sys2Proof/Machine/Destuffer.lean ====
section
/-! DEFINITION. The frame destuffer (43_frame_destuffer.md). -/

namespace Sys2Proof.Machine

/-- The index of `DSO` that a `put` writes: `DS_WC` (R203, section 1). -/
def putIndex (s : State) : Nat := s.dsWc.toNat

/-- `MemWrite(DSO, DS_WC, 1, v); DS_WC <- DS_WC + 1`. -/
def storeByte (v : Byte) (s : State) : State :=
  { s with dso := s.dso.write (putIndex s) v, dsWc := s.dsWc + 1 }

/-- The primitive `put(v)`, then `after` on the state it leaves. A full scratch buffer raises
`FrameOverflow`, and the whole DS_PUSH then changes nothing but `STATUS` (R204): every rule that
puts does so before any other write. An index beyond the array stops (log 6). -/
def putThen (v : Byte) (s : State) (after : State → Host.Outcome State Fault Refusal) :
    Host.Outcome State Fault Refusal :=
  if putIndex s = dsoSize then .next (raise .frameOverflow (opcodeOf .dsPush) s)
  else if dsoSize < putIndex s then .fault .dsoIndexOutsideArray
  else after (storeByte v s)

/-- `emit Frame(n, bytes)` with `n = DS_WC` and `bytes = DSO.byte[0..n-1]`: the frame port (R208). -/
def frameResponse (s : State) : Response :=
  { fv := true, flen := s.dsWc, fdata := (List.range s.dsWc.toNat).map (dsoByte s) }

/-- A frame of 3 or fewer bytes is dropped with no fault; a longer one is delivered (R201). -/
def delimiterResponse (s : State) : Response :=
  if 3 < s.dsWc.toNat then frameResponse s else {}

/-- Delimiter (R201): the byte ends the frame. `DS_REST` stays 0. -/
def pushDelimiter (s : State) : Host.Outcome State Fault Refusal :=
  if dsoSize < s.dsWc.toNat then .fault .dsoIndexOutsideArray
  else complete (delimiterResponse s) { s with dsWc := 0, dsZf := false }

/-- A new block of `b - 1` data bytes begins (R202). -/
def startBlock (b : Byte) (s : State) : Host.Outcome State Fault Refusal :=
  complete {} { s with dsRest := b - 1, dsZf := zeroFlagAfterLength s.params.cobsFF b }

/-- Length byte (R202): the substituted zero, if the flag asks for one, then the block's start. -/
def pushLength (b : Byte) (s : State) : Host.Outcome State Fault Refusal :=
  if s.dsZf then putThen 0x00#8 s (startBlock b) else startBlock b s

/-- Data byte (R203): copied whatever its value. -/
def pushData (b : Byte) (s : State) : Host.Outcome State Fault Refusal :=
  putThen b s fun t => complete {} { t with dsRest := t.dsRest - 1 }

/-- DS_RST (R200): start a fresh scan; `DSO` is unchanged. -/
def execDsRst (s : State) : Host.Outcome State Fault Refusal :=
  complete {} { s with dsWc := 0, dsRest := 0, dsZf := false }

/-- DS_PUSH (R205): feed one stream byte. -/
def execDsPush (s : State) : Host.Outcome State Fault Refusal :=
  let b := operandByte s
  if s.dsRest = 0 ∧ b = 0 then pushDelimiter s
  else if s.dsRest = 0 then pushLength b s
  else pushData b s

/-- The word DS_STAT answers: `R[8:0] = DS_WC`, `R[23:16] = DS_REST`, `R[24] = DS_ZF` (R207). -/
def scanWord (s : State) : Word :=
  s.dsWc.setWidth 32 ||| (s.dsRest.setWidth 32 <<< 16) ||| ((BitVec.ofBool s.dsZf).setWidth 32 <<< 24)

/-- DS_STAT (R207). -/
def execDsStat (s : State) : Host.Outcome State Fault Refusal := complete { r := scanWord s } s

end Sys2Proof.Machine
end

