-- ==== Sys2Proof/Machine/Entry.lean ====
section
/-! DEFINITION. The entry codec (42_entry_codec.md): the tag byte, the packer and the unpacker. -/

namespace Sys2Proof.Machine

/-- The mask `P_W1MASK` stands for (R3). -/
def w1MaskWord : W1Mask → Word
  | .ff => 0x000000FF#32
  | .fe => 0x000000FE#32

/-- The width function `W(raw)` (R173). -/
def widthOf (m : W1Mask) (raw : Word) : Width :=
  if raw.extractLsb' 16 16 ≠ 0 then .w4
  else if raw.extractLsb' 8 8 ≠ 0 then .w2
  else if raw &&& w1MaskWord m ≠ 0 then .w1
  else .w0

/-- `wcode`: 0b00, 0b01, 0b10 or 0b11 for width 0, 1, 2 or 4 (R82, R174). -/
def widthCode : Width → BitVec 2
  | .w0 => 0b00#2
  | .w1 => 0b01#2
  | .w2 => 0b10#2
  | .w4 => 0b11#2

/-- The width a version-4 width code stands for (R82, R178). -/
def widthOfCode (c : BitVec 2) : Width :=
  if c = 0b00#2 then .w0 else if c = 0b01#2 then .w1 else if c = 0b10#2 then .w2 else .w4

/-- The encoder's tag byte, `(ENT_TYPE & 0x3F) | (wcode << 6)` (R174). -/
def tagByte (ty : BitVec 7) (w : Width) : Byte :=
  (ty.setWidth 8 &&& 0x3F#8) ||| ((widthCode w).setWidth 8 <<< 6)

/-- The type and width a tag byte stands for: versions 1 to 3 (R83, R177) and version 4 (R82, R178). -/
def decodeTag (ver : Nat) (t : Byte) : BitVec 7 × Width :=
  if ver ≤ 3 then
    ((t &&& 0x7F#8).setWidth 7, if t.extractLsb' 7 1 = 1 then .w0 else .w4)
  else
    ((t &&& 0x3F#8).setWidth 7 + 64#7, widthOfCode (t.extractLsb' 6 2))

/-- The wire versions, 1 to 4 (R72, R176). -/
def versionSupported (ver : Nat) : Bool := decide (1 ≤ ver) && decide (ver ≤ 4)

/-- The bytes ENT_ENC produces: the tag byte, then `width` value bytes, little-endian (R84, R175). -/
def entryBytes (ty : BitVec 7) (w : Width) (raw : Word) : List Byte :=
  tagByte ty w :: (List.range (widthBytes w)).map (svByte raw)

/-- ENT_CLR (R170): the Entry is empty, `type='@'`, value 0. -/
def execEntClr (s : State) : Host.Outcome State Fault Refusal :=
  complete {} { s with entType := 0x40#7, svBuf := 0x00000000#32, svSize := 0#3 }

/-- ENT_WR_TYPE (R171): every 7-bit value is accepted. -/
def execEntWrType (s : State) : Host.Outcome State Fault Refusal :=
  complete {} { s with entType := operandChar s }

/-- ENT_RD_TYPE (R172). -/
def execEntRdType (s : State) : Host.Outcome State Fault Refusal :=
  complete { r := s.entType.setWidth 32 } s

/-- ENT_ENC (R175): the version-4 wire form; it writes no state and does not read `SV_SIZE`. -/
def execEntEnc (s : State) : Host.Outcome State Fault Refusal :=
  let raw := svRead 4 s.svBuf
  let w := widthOf s.params.w1mask raw
  complete
    { rb := windowOfBytes (entryBytes s.entType w raw)
      rlen := BitVec.ofNat 3 (1 + widthBytes w) } s

/-- What ENT_DEC finds in the window: the type and width, or the fault of the first check that fails
(R176, R179, R255). -/
def unpackEntry (ver avail : Nat) (b : Window) : Except FaultCode (BitVec 7 × Width) :=
  if versionSupported ver = false then .error .unsupportedVersion
  else if availBytes avail = 0 then .error .truncatedInput
  else
    let d := decodeTag ver (windowByte b 0)
    if availBytes avail < 1 + widthBytes d.2 then .error .truncatedInput else .ok d

/-- The entry's value is loaded, zero-padded, with its size and type, in one step (R180, R288). -/
def loadEntry (ty : BitVec 7) (w : Width) (s : State) : State :=
  { s with
    svBuf := svWrite (widthBytes w) (windowValue s.portB) 0x00000000#32
    svSize := BitVec.ofNat 3 (widthBytes w)
    entType := ty }

/-- ENT_DEC (R181). -/
def execEntDec (ver avail : Nat) (s : State) : Host.Outcome State Fault Refusal :=
  match unpackEntry ver avail s.portB with
  | .error code => .next (raise code (opcodeOf (.entDec ver avail)) s)
  | .ok (ty, w) => complete { rlen := BitVec.ofNat 3 (1 + widthBytes w) } (loadEntry ty w s)

end Sys2Proof.Machine
end

