-- ==== Sys2Proof/Machine/ScalarView.lean ====
section
/-! DEFINITION. The Scalar View commands (40_scalar_view.md). -/

namespace Sys2Proof.Machine

/-- A typed write of `n` bytes that sets the size tag: a write narrower than 32 bits first zeroes the
buffer (R100); a 32-bit write covers all four bytes (R105). -/
def writeScalar (n : Nat) (size : BitVec 3) (v : Word) (s : State) : Host.Outcome State Fault Refusal :=
  complete {} { s with svBuf := svWrite n v (if n < 4 then 0x00000000#32 else s.svBuf), svSize := size }

/-- SV_WR_U8 (R101). -/
def execSvWrU8 (s : State) : Host.Outcome State Fault Refusal :=
  writeScalar 1 1 ((operandByte s).setWidth 32) s

/-- SV_WR_I8 (R102): "the stored byte is not sign-extended into bytes 1 to 3". -/
def execSvWrI8 (s : State) : Host.Outcome State Fault Refusal :=
  writeScalar 1 1 ((operandByte s).setWidth 32) s

/-- SV_WR_U16 (R103). -/
def execSvWrU16 (s : State) : Host.Outcome State Fault Refusal :=
  writeScalar 2 2 ((operandHalf s).setWidth 32) s

/-- SV_WR_I16 (R104). -/
def execSvWrI16 (s : State) : Host.Outcome State Fault Refusal :=
  writeScalar 2 2 ((operandHalf s).setWidth 32) s

/-- SV_WR_U32 (R105). -/
def execSvWrU32 (s : State) : Host.Outcome State Fault Refusal := writeScalar 4 4 (operandWord s) s

/-- SV_WR_I32 (R106). -/
def execSvWrI32 (s : State) : Host.Outcome State Fault Refusal := writeScalar 4 4 (operandWord s) s

/-- SV_WR_F32 (R107): stored bit for bit, nothing canonicalised. -/
def execSvWrF32 (s : State) : Host.Outcome State Fault Refusal := writeScalar 4 4 (operandWord s) s

/-- SV_WR_F16 (R108): the binary16 pattern of F2H, under `P_CLAMP`, in bytes 0 and 1 (R53). -/
def execSvWrF16 (s : State) : Host.Outcome State Fault Refusal :=
  writeScalar 2 2 ((f2h s.params.clamp (operandWord s)).setWidth 32) s

/-- SV_RD_U8 (R110): zero-extended. -/
def execSvRdU8 (s : State) : Host.Outcome State Fault Refusal := complete { r := svRead 1 s.svBuf } s

/-- SV_RD_I8 (R111): sign-extended. -/
def execSvRdI8 (s : State) : Host.Outcome State Fault Refusal :=
  complete { r := ((svRead 1 s.svBuf).setWidth 8).signExtend 32 } s

/-- SV_RD_U16 (R112): zero-extended. -/
def execSvRdU16 (s : State) : Host.Outcome State Fault Refusal := complete { r := svRead 2 s.svBuf } s

/-- SV_RD_I16 (R113): sign-extended. -/
def execSvRdI16 (s : State) : Host.Outcome State Fault Refusal :=
  complete { r := ((svRead 2 s.svBuf).setWidth 16).signExtend 32 } s

/-- SV_RD_U32 (R114). -/
def execSvRdU32 (s : State) : Host.Outcome State Fault Refusal := complete { r := svRead 4 s.svBuf } s

/-- SV_RD_I32 (R115). -/
def execSvRdI32 (s : State) : Host.Outcome State Fault Refusal := complete { r := svRead 4 s.svBuf } s

/-- SV_RD_F32 (R116): returned bit for bit. -/
def execSvRdF32 (s : State) : Host.Outcome State Fault Refusal := complete { r := svRead 4 s.svBuf } s

/-- SV_RD_F16 (R117): H2F of bytes 0 and 1. -/
def execSvRdF16 (s : State) : Host.Outcome State Fault Refusal :=
  complete { r := h2f ((svRead 2 s.svBuf).setWidth 16) } s

/-- SV_RD_SIZE (R118). -/
def execSvRdSize (s : State) : Host.Outcome State Fault Refusal :=
  complete { r := s.svSize.setWidth 32 } s

end Sys2Proof.Machine
end

