-- ==== Sys2Proof/Machine/System.lean ====
section
/-! DEFINITION. The system commands (44_system.md). -/

namespace Sys2Proof.Machine

/-- NOP (R230): do nothing. -/
def execNop (s : State) : Host.Outcome State Fault Refusal := complete {} s

/-- SYS_RST (R231): reset the whole block, with the effect of power-on (R280). -/
def execSysRst (s : State) : Host.Outcome State Fault Refusal := complete {} (resetElements s)

/-- STAT_RD (R232): `R <- STATUS`; it does not clear `STATUS`. -/
def execStatRd (s : State) : Host.Outcome State Fault Refusal := complete { r := statusWord s.status } s

/-- STAT_CLR (R233): `STATUS <- 0x00000000`. -/
def execStatClr (s : State) : Host.Outcome State Fault Refusal := complete {} (clearStatus s)

end Sys2Proof.Machine
end

