-- ==== Sys2Proof/Machine/Dispatch.lean ====
section
/-! DEFINITION. Which meaning each command has: one arm per constructor of Instr. -/

namespace Sys2Proof.Machine

def exec (i : Instr) (s : State) : Host.Outcome State Fault Refusal :=
  match i with
  -- system commands (44_system.md)
  | .nop => Sys2Proof.Machine.execNop s
  | .sysRst => Sys2Proof.Machine.execSysRst s
  | .statRd => Sys2Proof.Machine.execStatRd s
  | .statClr => Sys2Proof.Machine.execStatClr s
  -- Scalar View writes (40_scalar_view.md)
  | .svWrU8 => Sys2Proof.Machine.execSvWrU8 s
  | .svWrI8 => Sys2Proof.Machine.execSvWrI8 s
  | .svWrU16 => Sys2Proof.Machine.execSvWrU16 s
  | .svWrI16 => Sys2Proof.Machine.execSvWrI16 s
  | .svWrU32 => Sys2Proof.Machine.execSvWrU32 s
  | .svWrI32 => Sys2Proof.Machine.execSvWrI32 s
  | .svWrF32 => Sys2Proof.Machine.execSvWrF32 s
  | .svWrF16 => Sys2Proof.Machine.execSvWrF16 s
  -- Scalar View reads (40_scalar_view.md)
  | .svRdU8 => Sys2Proof.Machine.execSvRdU8 s
  | .svRdI8 => Sys2Proof.Machine.execSvRdI8 s
  | .svRdU16 => Sys2Proof.Machine.execSvRdU16 s
  | .svRdI16 => Sys2Proof.Machine.execSvRdI16 s
  | .svRdU32 => Sys2Proof.Machine.execSvRdU32 s
  | .svRdI32 => Sys2Proof.Machine.execSvRdI32 s
  | .svRdF32 => Sys2Proof.Machine.execSvRdF32 s
  | .svRdF16 => Sys2Proof.Machine.execSvRdF16 s
  | .svRdSize => Sys2Proof.Machine.execSvRdSize s
  -- the converter (41_binary16.md)
  | .cvH2F => Sys2Proof.Machine.execCvH2F s
  | .cvF2H => Sys2Proof.Machine.execCvF2H s
  -- the entry codec (42_entry_codec.md)
  | .entClr => Sys2Proof.Machine.execEntClr s
  | .entWrType => Sys2Proof.Machine.execEntWrType s
  | .entRdType => Sys2Proof.Machine.execEntRdType s
  | .entEnc => Sys2Proof.Machine.execEntEnc s
  | .entDec ver avail => Sys2Proof.Machine.execEntDec ver avail s
  -- the frame destuffer (43_frame_destuffer.md)
  | .dsRst => Sys2Proof.Machine.execDsRst s
  | .dsPush => Sys2Proof.Machine.execDsPush s
  | .dsStat => Sys2Proof.Machine.execDsStat s

end Sys2Proof.Machine
end

