-- ==== Sys2Proof/Machine/Step.lean ====
section
/-! DEFINITION. One step: the block takes the oldest command the host has issued and runs it to its
end (00_scope.md R2, 20_memory.md R56, R59). -/

namespace Sys2Proof.Machine

/-- With no command issued the block waits and keeps its state (R58, R260; log 2). Otherwise it takes
the oldest command with its operands, decodes its word, runs the command or raises `IllegalCommand`
(R71, R75), and releases the operand ports (R32). -/
def step (s : State) : Host.Outcome State Fault Refusal :=
  match s.pending with
  | [] => .next (idle s)
  | c :: rest =>
    endStep (match decode c.cmd with
      | .ok i => exec i (sample c rest s)
      | .error _ => illegalCommand c.cmd (sample c rest s))

/-- `s` with the command word `w` (its low `nbits` bits) driven on the command port, so that the next
step takes exactly it (log 1). -/
def State.withFetchWord (s : State) (nbits w : Nat) : State :=
  driveCommandWord (BitVec.ofNat 32 (w % 2 ^ nbits)) s

end Sys2Proof.Machine
end

