-- ==== Sys2Proof/Machine/Assembler.lean ====
section
/-! DEFINITION. The assembler's notation (30_encoding.md R78) and the pseudo-instructions (R79): from
one line of characters to the commands the host issues. The step does not use it. -/

namespace Sys2Proof.Machine

/-- Why a line is refused (R78; log 13). -/
inductive AsmError where
  /-- The first word is neither a mnemonic of R74 nor a pseudo-instruction of R79. -/
  | unknownMnemonic
  /-- The text of an operand has none of the forms of R78. -/
  | malformedOperand
  /-- "The assembler refuses an operand on a command that takes none" (R78). -/
  | operandNotAllowed
  /-- The operands have a form R78 gives, but not the form this command uses. -/
  | wrongOperand
  /-- `#imm` "outside -2^31..2^32-1" (R78). -/
  | immediateOutOfRange
  /-- "A DS_PUSH byte outside 0..255" (R78), or such a byte of ENT_DEC's list (log 13). -/
  | byteOutOfRange
  /-- "More than 5 ENT_DEC bytes" (R78). -/
  | tooManyBytes
  /-- A version that `VER` cannot hold (R72; log 13). -/
  | versionOutOfRange
deriving DecidableEq, Repr

/-- The operand forms of R78, and the bare byte of DS_FEED and DS_DECODE (R79). -/
inductive AsmOperand where
  | imm (n : Int)
  | char (code : Nat)
  | version (n : Nat)
  | bytes (bs : List Int)
  | bare (n : Int)
deriving DecidableEq, Repr

/-- Which operand a command takes (R78). -/
inductive OperandForm where
  | none
  | imm
  | byteImm
  | immOrChar
  | entry
deriving DecidableEq, Repr

/-- The operand form of each command (R78). -/
def operandForm : Instr → OperandForm
  | .svWrU8 | .svWrI8 | .svWrU16 | .svWrI16 | .svWrU32 | .svWrI32 | .svWrF32 | .svWrF16 => .imm
  | .cvH2F | .cvF2H => .imm
  | .dsPush => .byteImm
  | .entWrType => .immOrChar
  | .entDec _ _ => .entry
  | .nop | .sysRst | .statRd | .statClr => .none
  | .svRdU8 | .svRdI8 | .svRdU16 | .svRdI16 | .svRdU32 | .svRdI32 | .svRdF32 | .svRdF16 => .none
  | .svRdSize | .entClr | .entRdType | .entEnc | .dsRst | .dsStat => .none

/-- The mnemonics of R74, the system, Scalar View write and converter families. -/
def mnemonicsA : List (String × Instr) :=
  [("NOP", .nop), ("SYS_RST", .sysRst), ("STAT_RD", .statRd), ("STAT_CLR", .statClr),
   ("SV_WR_U8", .svWrU8), ("SV_WR_I8", .svWrI8), ("SV_WR_U16", .svWrU16), ("SV_WR_I16", .svWrI16),
   ("SV_WR_U32", .svWrU32), ("SV_WR_I32", .svWrI32), ("SV_WR_F32", .svWrF32), ("SV_WR_F16", .svWrF16),
   ("CV_H2F", .cvH2F), ("CV_F2H", .cvF2H)]

/-- The mnemonics of R74, the other families. -/
def mnemonicsB : List (String × Instr) :=
  [("SV_RD_U8", .svRdU8), ("SV_RD_I8", .svRdI8), ("SV_RD_U16", .svRdU16), ("SV_RD_I16", .svRdI16),
   ("SV_RD_U32", .svRdU32), ("SV_RD_I32", .svRdI32), ("SV_RD_F32", .svRdF32), ("SV_RD_F16", .svRdF16),
   ("SV_RD_SIZE", .svRdSize), ("ENT_CLR", .entClr), ("ENT_WR_TYPE", .entWrType),
   ("ENT_RD_TYPE", .entRdType), ("ENT_ENC", .entEnc), ("ENT_DEC", .entDec 0 0),
   ("DS_RST", .dsRst), ("DS_PUSH", .dsPush), ("DS_STAT", .dsStat)]

/-- "The mnemonic is the name in rule R74" (R78). -/
def findMnemonic (word : List Char) : Option Instr :=
  ((mnemonicsA ++ mnemonicsB).find? fun row => row.1.toList == word).map Prod.snd

/-- The command with nothing on its operand ports. -/
def plainIssue (i : Instr) : Command := { cmd := encode i, a := 0, b := 0 }

/-- The command with `n` on `A`: a negative number becomes its two's complement (R78). -/
def immIssue (i : Instr) (n : Int) : Except AsmError Command :=
  if -(2 ^ 31) ≤ n ∧ n ≤ 2 ^ 32 - 1 then .ok { cmd := encode i, a := BitVec.ofInt 32 n, b := 0 }
  else .error .immediateOutOfRange

/-- DS_PUSH of a byte (R78). -/
def pushIssue (n : Int) : Except AsmError Command :=
  if 0 ≤ n ∧ n ≤ 255 then .ok { cmd := encode .dsPush, a := BitVec.ofInt 32 n, b := 0 }
  else .error .byteOutOfRange

/-- The listed bytes on `B.byte(0)`, `B.byte(1)` and so on; "unlisted window bytes are 0" (R78). -/
def packWindow : List Int → Window
  | [] => 0
  | n :: ns => (BitVec.ofInt 8 n).setWidth 40 ||| (packWindow ns <<< 8)

/-- `ENT_DEC vN, [b0, b1, …]`: `VER = N` and `AVAIL` is the count of listed bytes (R78). -/
def entryIssue (ver : Nat) (bs : List Int) : Except AsmError Command :=
  if ¬ver < 8 then .error .versionOutOfRange
  else if 5 < bs.length then .error .tooManyBytes
  else if bs.all (fun n => decide (0 ≤ n) && decide (n ≤ 255)) then
    .ok { cmd := encode (.entDec ver bs.length), a := 0, b := packWindow bs }
  else .error .byteOutOfRange

/-- One command with its operands (R78). -/
def assembleCommand (i : Instr) (ops : List AsmOperand) : Except AsmError Command :=
  match operandForm i, ops with
  | .none, [] => .ok (plainIssue i)
  | .none, _ :: _ => .error .operandNotAllowed
  | .imm, [.imm n] => immIssue i n
  | .byteImm, [.imm n] => pushIssue n
  | .immOrChar, [.imm n] => immIssue i n
  | .immOrChar, [.char c] => if c < 128 then immIssue i c else .error .malformedOperand
  | .entry, [.version v, .bytes bs] => entryIssue v bs
  | _, _ => .error .wrongOperand

/-- `DS_FEED b0, b1, …, bn`: one DS_PUSH a byte, in order (R79). -/
def feedIssues : List AsmOperand → Except AsmError (List Command)
  | [] => .ok []
  | .bare n :: ops =>
    match pushIssue n, feedIssues ops with
    | .ok c, .ok cs => .ok (c :: cs)
    | .error e, _ => .error e
    | _, .error e => .error e
  | .imm _ :: _ | .char _ :: _ | .version _ :: _ | .bytes _ :: _ => .error .wrongOperand

/-- `ENT_SET 'c', #v` is `ENT_WR_TYPE 'c'` then `SV_WR_U32 #v` (R79). DESIGN CHOICE (log 13): R79 gives only
`'c'` for the first operand; the model also takes `#n` there, as ENT_WR_TYPE does (R78). -/
def entSetIssues : List AsmOperand → Except AsmError (List Command)
  | [c, v] =>
    match assembleCommand .entWrType [c], assembleCommand .svWrU32 [v] with
    | .ok x, .ok y => .ok [x, y]
    | .error e, _ => .error e
    | _, .error e => .error e
  | _ => .error .wrongOperand

/-- A mnemonic or pseudo-instruction with its operands: the commands it issues (R78, R79). -/
def assembleWord (word : List Char) (ops : List AsmOperand) : Except AsmError (List Command) :=
  match findMnemonic word with
  | some i => (assembleCommand i ops).map fun c => [c]
  | none =>
    if word = "DS_FEED".toList then
      if ops = [] then .error .wrongOperand else feedIssues ops
    else if word = "DS_DECODE".toList then
      if ops = [] then .error .wrongOperand
      else (feedIssues ops).map fun cs => plainIssue .dsRst :: cs
    else if word = "ENT_SET".toList then entSetIssues ops
    else if word = "ENT_NEW".toList then
      if ops = [] then .ok [plainIssue .entClr] else .error .operandNotAllowed
    else .error .unknownMnemonic

/-- A blank between the parts of a line. -/
def isBlank (c : Char) : Bool := c == ' ' || c == '\t'

/-- A text without the blanks at its ends. -/
def trimBlanks (cs : List Char) : List Char :=
  ((cs.dropWhile isBlank).reverse.dropWhile isBlank).reverse

/-- The value of a digit in a base of at most 16. -/
def digitValue (base : Nat) (c : Char) : Option Nat :=
  let v := if '0' ≤ c ∧ c ≤ '9' then c.toNat - '0'.toNat
    else if 'a' ≤ c ∧ c ≤ 'f' then c.toNat - 'a'.toNat + 10
    else if 'A' ≤ c ∧ c ≤ 'F' then c.toNat - 'A'.toNat + 10
    else 16
  if v < base then some v else none

/-- The digits after `acc`, in a base of at most 16. -/
def digitsFrom (base : Nat) : Nat → List Char → Option Nat
  | acc, [] => some acc
  | acc, c :: cs =>
    match digitValue base c with
    | some v => digitsFrom base (acc * base + v) cs
    | none => none

/-- A number in a base of at most 16: at least one digit. -/
def number (base : Nat) (cs : List Char) : Option Nat :=
  if cs = [] then none else digitsFrom base 0 cs

/-- "A decimal or `0x` literal, or a negative decimal" (R78). -/
def literal : List Char → Option Int
  | '0' :: 'x' :: cs => (number 16 cs).map Int.ofNat
  | '-' :: cs => (number 10 cs).map fun n => -(n : Int)
  | cs => (number 10 cs).map Int.ofNat

/-- A byte of a DS_FEED or DS_DECODE list: hexadecimal, with or without `0x`, as 95_test_vectors.md P2
writes them (`DS_FEED 04, 80, 21, …` pushes 0x04, 0x80, 0x21; log 13). -/
def streamByte : List Char → Option Int
  | '0' :: 'x' :: cs => (number 16 cs).map Int.ofNat
  | cs => (number 16 cs).map Int.ofNat

/-- Where the scan of the operands stands: outside, inside `[ ]`, or inside a character operand. -/
inductive ScanMode where
  | outside
  | bracket
  | quoteOpen
  | quoteClose
deriving DecidableEq, Repr

/-- The operands of a line, split at the commas that stand outside `[ ]` and quotes; "a comment starts
with `;`" (R78). `cur` holds the operand being read, last character first. DESIGN CHOICE (log 13):
right after an opening quote a `;`, a `,`, a blank or a quote is the character of `'c'`, where R78 leaves open
whether `;` starts a comment there; a `;` inside `[ ]` does start one. -/
def splitOperands : ScanMode → List Char → List Char → List (List Char)
  | _, cur, [] => [cur.reverse]
  | .outside, cur, c :: cs =>
    if c = ';' then [cur.reverse]
    else if c = ',' then cur.reverse :: splitOperands .outside [] cs
    else splitOperands (if c = '[' then .bracket else if c = '\'' then .quoteOpen else .outside) (c :: cur) cs
  | .bracket, cur, c :: cs =>
    if c = ';' then [cur.reverse]
    else splitOperands (if c = ']' then .outside else .bracket) (c :: cur) cs
  | .quoteOpen, cur, c :: cs => splitOperands .quoteClose (c :: cur) cs
  | .quoteClose, cur, c :: cs => splitOperands .outside (c :: cur) cs

/-- The byte list between `[` and `]`. -/
def byteList (cs : List Char) : Option (List Int) :=
  if trimBlanks cs = [] then some []
  else ((splitOperands .outside [] cs).map fun t => literal (trimBlanks t)).mapM id

/-- One operand's text (R78, R79). -/
def parseOperand : List Char → Option AsmOperand
  | ['\'', c, '\''] => some (.char c.toNat)
  | '#' :: cs => (literal cs).map .imm
  | 'v' :: cs => (number 10 cs).map .version
  | '[' :: cs =>
    match cs.reverse with
    | ']' :: inner => (byteList inner.reverse).map .bytes
    | _ => none
  | cs => (streamByte cs).map .bare

/-- One line: "one command per line: `MNEMONIC [operand]`" (R78). A line with nothing but blanks and a
comment issues nothing. -/
def assembleLine (line : List Char) : Except AsmError (List Command) :=
  let text := line.dropWhile isBlank
  let word := text.takeWhile fun c => !isBlank c && c != ';'
  let rest := text.drop word.length
  if word = [] then .ok []
  else
    let parts := (splitOperands .outside [] rest).map trimBlanks
    if parts = [[]] then assembleWord word []
    else match (parts.map parseOperand).mapM id with
      | some ops => assembleWord word ops
      | none => .error .malformedOperand

/-- The host issues commands: they wait behind the ones already issued (R59). -/
def issue (cs : List Command) (s : State) : State := { s with pending := s.pending ++ cs }

end Sys2Proof.Machine
end

