-- ==== Sys2Proof/Safety.lean ====
section
/-! DEFINITION. The terms claims are stated in: the invariant of every state a run reaches, equality
of the spec's state elements, and the stuffed stream of 30_encoding.md R86 with its decoding. -/

namespace Sys2Proof.Machine

/-- The state an outcome goes on with, if it goes on. -/
def nextState : Host.Outcome State Fault Refusal → Option State
  | .next s => some s
  | .fault _ => none
  | .refused _ => none

/-- What holds after reset and after every step. -/
structure State.Inv (s : State) : Prop where
  /-- `SV_SIZE`: "its only legal values are 0, 1, 2 and 4" (R21). -/
  sizeLegal : s.svSize = 0 ∨ s.svSize = 1 ∨ s.svSize = 2 ∨ s.svSize = 4
  /-- "Every byte of `SV_BUF` at index `k >= SV_SIZE` is zero" (R22). -/
  deadBytesZero : ∀ k, k < 4 → s.svSize.toNat ≤ k → svByte s.svBuf k = 0
  /-- `DS_WC`: "its values are 0 to 256" (R25). -/
  cursorLegal : s.dsWc.toNat ≤ dsoSize
  /-- `DS_REST`: "its values are 0 to 254" (R26). -/
  restLegal : s.dsRest.toNat ≤ 254
  /-- `DSO` is in its canonical form, with no byte outside the array (R24). -/
  dsoCanonical : s.dso.wf = true
  /-- "Every byte a delivery reads was written" (R24). -/
  frameWritten : ∀ k, k < s.dsWc.toNat → (s.dso.read k).isSome = true
  /-- `FCODE` is 0 to 4 and non-zero exactly when a fault is pending; with none, `STATUS` is 0 (R28, R253). -/
  statusLegal : s.status.fcode.toNat ≤ 4 ∧ (s.status.fpend = true ↔ s.status.fcode ≠ 0) ∧
    (s.status.fpend = false → s.status = Status.zero)

/-- Every byte of `DSO` reads as before. -/
def SameDso (s t : State) : Prop := ∀ i, dsoByte t i = dsoByte s i

/-- An opcode R75 calls unassigned: "0x04-0x0F, 0x21-0x27, 0x2A-0x2F, 0x35-0x3F and 0x43-0xFF". -/
def UnassignedOpcode (n : Nat) : Prop :=
  (0x04 ≤ n ∧ n ≤ 0x0F) ∨ (0x21 ≤ n ∧ n ≤ 0x27) ∨ (0x2A ≤ n ∧ n ≤ 0x2F) ∨
    (0x35 ≤ n ∧ n ≤ 0x3F) ∨ (0x43 ≤ n ∧ n ≤ 0xFF)

/-- A word R71 or R75 calls illegal: bit 11 or a bit of 31:15 is set, or `VER` or `AVAIL` is non-zero
and `OPC` is not 0x34, or `OPC` is unassigned. -/
def IllegalWord (w : Word) : Prop :=
  w.getLsbD 11 = true ∨ 2 ^ 15 ≤ w.toNat ∨
    ((w.extractLsb' 8 3 ≠ 0 ∨ w.extractLsb' 12 3 ≠ 0) ∧ w.extractLsb' 0 8 ≠ 0x34#8) ∨
    UnassignedOpcode (w.extractLsb' 0 8).toNat

/-- The blocks of a frame, each by its data bytes, as they stand on the wire: "a length byte `L` in
1..255 followed by `L - 1` data bytes" (R86). -/
def stuffBlocks : List (List Byte) → List Byte
  | [] => []
  | d :: ds => BitVec.ofNat 8 (d.length + 1) :: d ++ stuffBlocks ds

/-- What stands between a block's data and the next block's: "one substituted 0x00 byte", but under
CLASSIC nothing after a block whose length byte was 0xFF (R86). -/
def blockGap (p : CobsFF) (d : List Byte) : List Byte :=
  match p with
  | .plain => [0x00#8]
  | .classic => if d.length = 254 then [] else [0x00#8]

/-- What a frame decodes to: the data bytes of its blocks, in order, with the gaps between (R86). -/
def joinBlocks (p : CobsFF) : List (List Byte) → List Byte
  | [] => []
  | [d] => d
  | d :: e :: ds => d ++ blockGap p d ++ joinBlocks p (e :: ds)

/-- The byte on `A` would be `put`, or a substituted zero would: a data byte (R203), or a length byte
with the zero flag set (R202). -/
def wouldPut (s : State) : Prop := s.dsRest ≠ 0 ∨ (operandByte s ≠ 0 ∧ s.dsZf = true)

/-- Feed a byte to the destuffer: DS_PUSH with the byte on `A` (R205). -/
def push (b : Byte) (s : State) : Host.Outcome State Fault Refusal :=
  exec .dsPush { s with operands := some { a := b.setWidth 32, b := 0 } }

/-- Feed bytes one DS_PUSH each (R79): the state after them and the frames their responses delivered,
in order; none if the machine stops. -/
def feed : List Byte → State → Option (State × List (List Byte))
  | [], s => some (s, [])
  | b :: bs, s =>
    match push b s with
    | .next t => (feed bs t).map fun after =>
        (after.1, (if t.response.fv then [t.response.fdata] else []) ++ after.2)
    | .fault _ => none
    | .refused _ => none

end Sys2Proof.Machine
end

