-- ==== Sys2Proof/Certificates/Slice0/Obligations.lean ====
section
/-! DEFINITION. The statements about the model, from the numbered rules of spec/. `A[7:0]` is written
`s.portA.extractLsb' 0 8`, a field of a word in the same way; `s.portA` and `s.portB` are the operand ports
as sampled (R76), `s.response` is what the response ports carry. -/

open Sys2Proof Sys2Proof.Machine

/-! ### The command word -/

/-- R70, R74: no bit of an encoding is dropped. -/
def Obligations.DecodeOfEncodeIsTheCommand : Prop :=
  ∀ i : Instr, i.WellFormed → decode (encode i) = .ok i

/-- R74: a word that decodes is the encoding of the command it decodes to, and of no other word. -/
def Obligations.DecodedWordsAreEncodings : Prop :=
  ∀ (w : Word) (i : Instr), decode w = .ok i → i.WellFormed ∧ encode i = w

/-- R71, R75: exactly the words the two rules name are refused, and each raises `IllegalCommand`, with
its own `OPC`, and changes nothing but `STATUS` (`fl` is the model's own record, log 9). -/
def Obligations.IllegalWordsRaiseIllegalCommand : Prop :=
  (∀ w : Word, (∃ e, decode w = .error e) ↔ IllegalWord w) ∧
  ∀ (s : State) (c : Command) (rest : List Command), s.pending = c :: rest → IllegalWord c.cmd →
    ∃ fl, step s = .next
      { s with
        pending := rest
        operands := none
        status := if s.status.fpend then s.status
          else { fcode := 1#4, fpend := true, fopc := c.cmd.extractLsb' 0 8 }
        resp := some { rst := 1#4 }
        faultLog := fl }

/-- R74: words written out from the encoding decode to the commands they stand for. -/
def Obligations.SampleWordsDecode : Prop :=
  decode 0x00000000#32 = .ok .nop ∧ decode 0x00000003#32 = .ok .statClr ∧
  decode 0x00000012#32 = .ok .svWrU16 ∧ decode 0x0000001F#32 = .ok .svRdF16 ∧
  decode 0x00000020#32 = .ok .svRdSize ∧ decode 0x00000029#32 = .ok .cvF2H ∧
  decode 0x00000033#32 = .ok .entEnc ∧ decode 0x00003434#32 = .ok (.entDec 4 3) ∧
  decode 0x00007034#32 = .ok (.entDec 0 7) ∧ decode 0x00000041#32 = .ok .dsPush

/-- R59, R76: a step takes the oldest command with its operands and runs what its word decodes to. That
the operands stand in the field `operands` and that the step ends by releasing it is the model's choice
(log 3), as is the list of issued commands (log 1). -/
def Obligations.StepRunsTheDecodedCommand : Prop :=
  ∀ (s : State) (c : Command) (rest : List Command) (i : Instr),
    s.pending = c :: rest → decode c.cmd = .ok i →
      step s = match exec i { s with pending := rest, operands := some { a := c.a, b := c.b } } with
        | .next t => .next { t with operands := none }
        | .fault f => .fault f
        | .refused r => .refused r

/-- R58, R260: with no command issued the block keeps its state. That waiting is a step, and that it clears
the model's fields for the ports, `operands` and `resp`, is the model's choice (logs 2 and 3). -/
def Obligations.StepWaitsForACommand : Prop :=
  ∀ s : State, s.pending = [] → step s = .next { s with operands := none, resp := none }

/-- The first clause is the model's choice of how to hold the ports (logs 2 and 3), not R32's words: `operands`
is released at the end of every step, and `resp` stays in the next state as the step's output, so it is
none exactly where the step ran no command. The second clause is R32's "A step's response depends only on
the state before the step, `CMD`, `A`, `B` and the parameters": not on what the model's port fields last
held, on the commands behind, or on the model's fault record (log 9). -/
def Obligations.ResponseDependsOnStateAndSampledPorts : Prop :=
  (∀ s t : State, step s = .next t → t.operands = none ∧ (t.resp = none ↔ s.pending = [])) ∧
  ∀ (s : State) (c : Command) (rest rest' : List Command) (o o' : Option Operands)
    (r r' : Option Response) (fl fl' : List FaultRecord),
    (nextState (step { s with pending := c :: rest, operands := o, resp := r, faultLog := fl })).map State.resp =
    (nextState (step { s with pending := c :: rest', operands := o', resp := r', faultLog := fl' })).map State.resp

/-! ### Faults -/

/-- R252: a faulting command changes no state element except `STATUS`, its response carries the code
alone, and the block goes on with the next command. -/
def Obligations.FaultsArePrecise : Prop :=
  ∀ (s t : State) (c : Command) (rest : List Command), s.pending = c :: rest → step s = .next t →
    t.response.rst ≠ 0 →
      t.svBuf = s.svBuf ∧ t.svSize = s.svSize ∧ t.entType = s.entType ∧ SameDso s t ∧
      t.dsWc = s.dsWc ∧ t.dsRest = s.dsRest ∧ t.dsZf = s.dsZf ∧
      t.resp = some { rst := t.response.rst } ∧ t.params = s.params ∧ t.pending = rest

/-- R253: the first fault since the last clear is kept, with its code and the faulting word's `OPC`. -/
def Obligations.FirstFaultIsKept : Prop :=
  ∀ (s t : State) (c : Command) (rest : List Command), s.pending = c :: rest → step s = .next t →
    t.response.rst ≠ 0 →
      (s.status.fpend = true → t.status = s.status) ∧
      (s.status.fpend = false →
        t.status = { fcode := t.response.rst, fpend := true, fopc := c.cmd.extractLsb' 0 8 })

/-- R250, R255: each code has its cause, the first in the order of R255 is reported, and no other code occurs. -/
def Obligations.FaultCodesHaveTheirCauses : Prop :=
  ∀ (s t : State) (c : Command) (rest : List Command), s.pending = c :: rest → step s = .next t →
    let opc := c.cmd.extractLsb' 0 8
    let ver := (c.cmd.extractLsb' 8 3).toNat
    let avail := (c.cmd.extractLsb' 12 3).toNat
    let width := widthBytes (decodeTag ver (c.b.extractLsb' 0 8)).2
    let legal := ¬ IllegalWord c.cmd
    (t.response.rst = 1#4 ↔ IllegalWord c.cmd) ∧
    (t.response.rst = 2#4 ↔ legal ∧ opc = 0x34#8 ∧ ¬ (1 ≤ ver ∧ ver ≤ 4)) ∧
    (t.response.rst = 3#4 ↔ legal ∧ opc = 0x34#8 ∧ 1 ≤ ver ∧ ver ≤ 4 ∧
      (avail = 0 ∨ min avail 5 < 1 + width)) ∧
    (t.response.rst = 4#4 ↔ legal ∧ opc = 0x41#8 ∧ s.dsWc = 256#9 ∧
      (s.dsRest ≠ 0 ∨ (c.a.extractLsb' 0 8 ≠ 0 ∧ s.dsZf = true))) ∧
    t.response.rst.toNat ≤ 4

/-- R251: no command but ENT_DEC and DS_PUSH can fault once its word is legal, whatever its data. -/
def Obligations.OtherCommandsNeverFault : Prop :=
  ∀ (i : Instr) (s : State), (∀ ver avail, i ≠ .entDec ver avail) → i ≠ .dsPush →
    ∃ t, exec i s = .next t ∧ t.response.rst = 0 ∧ t.faultLog = s.faultLog

/-! ### Scalar View -/

/-- R101, R102: the 8-bit writes. -/
def Obligations.EightBitWrites : Prop :=
  decode 0x00000010#32 = .ok .svWrU8 ∧ decode 0x00000011#32 = .ok .svWrI8 ∧
  ∀ s : State,
    exec .svWrU8 s = .next { s with svBuf := (s.portA.extractLsb' 0 8).setWidth 32, svSize := 1, resp := some {} } ∧
    exec .svWrI8 s = .next { s with svBuf := (s.portA.extractLsb' 0 8).setWidth 32, svSize := 1, resp := some {} }

/-- R103, R104: the 16-bit writes. -/
def Obligations.SixteenBitWrites : Prop :=
  decode 0x00000012#32 = .ok .svWrU16 ∧ decode 0x00000013#32 = .ok .svWrI16 ∧
  ∀ s : State,
    exec .svWrU16 s = .next { s with svBuf := (s.portA.extractLsb' 0 16).setWidth 32, svSize := 2, resp := some {} } ∧
    exec .svWrI16 s = .next { s with svBuf := (s.portA.extractLsb' 0 16).setWidth 32, svSize := 2, resp := some {} }

/-- R105, R106, R107: the 32-bit writes, a binary32 pattern among them, stored bit for bit. -/
def Obligations.ThirtyTwoBitWrites : Prop :=
  decode 0x00000014#32 = .ok .svWrU32 ∧ decode 0x00000015#32 = .ok .svWrI32 ∧
  decode 0x00000016#32 = .ok .svWrF32 ∧
  ∀ s : State,
    exec .svWrU32 s = .next { s with svBuf := s.portA, svSize := 4, resp := some {} } ∧
    exec .svWrI32 s = .next { s with svBuf := s.portA, svSize := 4, resp := some {} } ∧
    exec .svWrF32 s = .next { s with svBuf := s.portA, svSize := 4, resp := some {} }

/-- R108: the write through the float16 view, under either `P_CLAMP`. -/
def Obligations.Float16ViewWrite : Prop :=
  decode 0x00000017#32 = .ok .svWrF16 ∧
  ∀ s : State, exec .svWrF16 s =
    .next { s with svBuf := (f2h s.params.clamp s.portA).setWidth 32, svSize := 2, resp := some {} }

/-- R110, R112: the narrow unsigned reads. -/
def Obligations.UnsignedNarrowReads : Prop :=
  decode 0x00000018#32 = .ok .svRdU8 ∧ decode 0x0000001A#32 = .ok .svRdU16 ∧
  ∀ s : State,
    exec .svRdU8 s = .next { s with resp := some { r := (s.svBuf.extractLsb' 0 8).setWidth 32 } } ∧
    exec .svRdU16 s = .next { s with resp := some { r := (s.svBuf.extractLsb' 0 16).setWidth 32 } }

/-- R111, R113: the narrow signed reads, sign-extended. -/
def Obligations.SignedNarrowReads : Prop :=
  decode 0x00000019#32 = .ok .svRdI8 ∧ decode 0x0000001B#32 = .ok .svRdI16 ∧
  ∀ s : State,
    exec .svRdI8 s = .next { s with resp := some { r := (s.svBuf.extractLsb' 0 8).signExtend 32 } } ∧
    exec .svRdI16 s = .next { s with resp := some { r := (s.svBuf.extractLsb' 0 16).signExtend 32 } }

/-- R114, R115, R116: the 32-bit reads return `SV_BUF` bit for bit. -/
def Obligations.ThirtyTwoBitReads : Prop :=
  decode 0x0000001C#32 = .ok .svRdU32 ∧ decode 0x0000001D#32 = .ok .svRdI32 ∧
  decode 0x0000001E#32 = .ok .svRdF32 ∧
  ∀ s : State,
    exec .svRdU32 s = .next { s with resp := some { r := s.svBuf } } ∧
    exec .svRdI32 s = .next { s with resp := some { r := s.svBuf } } ∧
    exec .svRdF32 s = .next { s with resp := some { r := s.svBuf } }

/-- R117, R118: the read through the float16 view, and the size tag, which in every state a run can reach
reads as 0, 1, 2 or 4. -/
def Obligations.Float16ViewReadAndSizeRead : Prop :=
  decode 0x0000001F#32 = .ok .svRdF16 ∧ decode 0x00000020#32 = .ok .svRdSize ∧
  ∀ s : State,
    exec .svRdF16 s = .next { s with resp := some { r := h2f (s.svBuf.extractLsb' 0 16) } } ∧
    exec .svRdSize s = .next { s with resp := some { r := s.svSize.setWidth 32 } } ∧
    (s.Inv → (s.svSize.setWidth 32 : Word) ∈ [0, 1, 2, 4])

/-- R54, R100: a narrow read after a wide write returns the low bytes, and a wide read after any narrow
write returns zeros in the bytes the write did not cover, whatever the buffer held. -/
def Obligations.MixedWidthAccessesOverlap : Prop :=
  (∀ s : State, ∃ t, exec .svWrU32 s = .next t ∧
    (∃ u, exec .svRdU8 t = .next u ∧ u.response.r = (s.portA.extractLsb' 0 8).setWidth 32) ∧
    (∃ u, exec .svRdU16 t = .next u ∧ u.response.r = (s.portA.extractLsb' 0 16).setWidth 32)) ∧
  (∀ (s : State) (i : Instr), i ∈ [Instr.svWrU8, .svWrI8] → ∃ t u, exec i s = .next t ∧
    exec .svRdU32 t = .next u ∧ u.response.r.extractLsb' 0 8 = s.portA.extractLsb' 0 8 ∧
    u.response.r.extractLsb' 8 24 = 0) ∧
  (∀ (s : State) (i : Instr), i ∈ [Instr.svWrU16, .svWrI16] → ∃ t u, exec i s = .next t ∧
    exec .svRdU32 t = .next u ∧ u.response.r.extractLsb' 0 16 = s.portA.extractLsb' 0 16 ∧
    u.response.r.extractLsb' 16 16 = 0) ∧
  (∀ s : State, ∃ t u, exec .svWrF16 s = .next t ∧ exec .svRdU32 t = .next u ∧
    u.response.r.extractLsb' 16 16 = 0)

/-! ### The binary16 converter -/

/-- R141 to R145: the five branches of H2F. -/
def Obligations.HalfToSingleBranches : Prop :=
  ∀ h : Half,
    let s := (h.extractLsb' 15 1).setWidth 32
    let e := h.extractLsb' 10 5
    let f := h.extractLsb' 0 10
    let f32 := f.setWidth 32
    (e = 0 → f = 0 → h2f h = 0) ∧
    (e = 0 → f ≠ 0 → h2f h = (s <<< 31) ||| (f32 <<< 13)) ∧
    (e = 0x1F#5 → f = 0 → h2f h = (s <<< 31) ||| 0x7F800000#32) ∧
    (e = 0x1F#5 → f ≠ 0 → h2f h = (s <<< 31) ||| 0x7F800000#32 ||| (f32 <<< 13)) ∧
    (1 ≤ e.toNat → e.toNat ≤ 30 →
      h2f h = (s <<< 31) ||| (BitVec.ofNat 32 (e.toNat + 112) <<< 23) ||| (f32 <<< 13))

/-- R151 to R155: the branches of F2H, by the fields of its result: the sign is carried, the fraction
is `F >> 13`, and the half exponent is 0, 31, or what the clamp of the instance gives. -/
def Obligations.SingleToHalfFields : Prop :=
  ∀ (c : Clamp) (x : Word),
    let E := (x.extractLsb' 23 8).toNat
    (f2h c x).extractLsb' 15 1 = x.extractLsb' 31 1 ∧
    (f2h c x).extractLsb' 0 10 = x.extractLsb' 13 10 ∧
    (E = 0 → (f2h c x).extractLsb' 10 5 = 0) ∧
    (E = 255 → (f2h c x).extractLsb' 10 5 = 31) ∧
    (1 ≤ E → E ≤ 254 → c = .asWritten → (f2h c x).extractLsb' 10 5 = 31) ∧
    (1 ≤ E → E ≤ 112 → c = .corrected → (f2h c x).extractLsb' 10 5 = 0) ∧
    (113 ≤ E → E ≤ 142 → c = .corrected → ((f2h c x).extractLsb' 10 5).toNat = E - 112) ∧
    (143 ≤ E → E ≤ 254 → c = .corrected → (f2h c x).extractLsb' 10 5 = 31)

/-- R162: H2F preserves the exponent field's class, and is injective except on the two zeros. -/
def Obligations.HalfToSinglePreservesClass : Prop :=
  (∀ h : Half,
    let e := h.extractLsb' 10 5
    let E := (h2f h).extractLsb' 23 8
    (E = 0 ↔ e = 0) ∧ (E = 0xFF#8 ↔ e = 0x1F#5) ∧
    (e ≠ 0 → e ≠ 0x1F#5 → E.toNat = e.toNat + 112)) ∧
  (∀ h k : Half, h2f h = h2f k →
    h = k ∨ (h = 0x0000#16 ∧ k = 0x8000#16) ∨ (h = 0x8000#16 ∧ k = 0x0000#16)) ∧
  h2f 0x0000#16 = 0 ∧ h2f 0x8000#16 = 0

/-- R163: half to single and back, under both clamps. -/
def Obligations.HalfToSingleAndBack : Prop :=
  (∀ h : Half, h ≠ 0x8000#16 → f2h .corrected (h2f h) = h) ∧
  (∀ h : Half, h ≠ 0x8000#16 → h.extractLsb' 10 5 = 0 ∨ h.extractLsb' 10 5 = 0x1F#5 →
    f2h .asWritten (h2f h) = h) ∧
  (∀ h : Half, h.extractLsb' 10 5 ≠ 0 → h.extractLsb' 10 5 ≠ 0x1F#5 →
    f2h .asWritten (h2f h) =
      ((h.extractLsb' 15 1).setWidth 16 <<< 15) ||| 0x7C00#16 ||| (h.extractLsb' 0 10).setWidth 16) ∧
  ∀ c : Clamp, f2h c (h2f 0x8000#16) = 0x0000#16

/-- R164: single to half and back under CORRECTED, on the three ranges the rule gives. -/
def Obligations.SingleToHalfAndBack : Prop :=
  ∀ x : Word, x.extractLsb' 0 13 = 0 →
    let E := (x.extractLsb' 23 8).toNat
    ((113 ≤ E ∧ E ≤ 142) ∨ E = 255 ∨ (E = 0 ∧ x.extractLsb' 13 10 ≠ 0)) →
      h2f (f2h .corrected x) = x

/-- R165: the extremes hold under both values of `P_CLAMP`. -/
def Obligations.Float16ExtremesUnderBothClamps : Prop :=
  ∀ c : Clamp, f2h c 0x00000000#32 = 0x0000#16 ∧ f2h c 0x80000000#32 = 0x8000#16 ∧
    f2h c 0x7F800000#32 = 0x7C00#16 ∧ f2h c 0x7FC00000#32 = 0x7E00#16

/-- R156: F2H truncates; `F[12:0]` plays no part in any branch. -/
def Obligations.SingleToHalfTruncates : Prop :=
  ∀ (c : Clamp) (x y : Word), x.extractLsb' 13 19 = y.extractLsb' 13 19 → f2h c x = f2h c y

/-- R160, R161: the two converter commands write no state. -/
def Obligations.ConverterCommands : Prop :=
  decode 0x00000028#32 = .ok .cvH2F ∧ decode 0x00000029#32 = .ok .cvF2H ∧
  ∀ s : State,
    exec .cvH2F s = .next { s with resp := some { r := h2f (s.portA.extractLsb' 0 16) } } ∧
    exec .cvF2H s = .next { s with resp := some { r := (f2h s.params.clamp s.portA).setWidth 32 } }

/-! ### The entry codec -/

/-- R170, R171, R172: clear the Entry, write and read its type. -/
def Obligations.EntryClearAndTypeAccess : Prop :=
  decode 0x00000030#32 = .ok .entClr ∧ decode 0x00000031#32 = .ok .entWrType ∧
  decode 0x00000032#32 = .ok .entRdType ∧
  ∀ s : State,
    exec .entClr s = .next { s with entType := 0x40#7, svBuf := 0, svSize := 0, resp := some {} } ∧
    exec .entWrType s = .next { s with entType := s.portA.extractLsb' 0 7, resp := some {} } ∧
    exec .entRdType s = .next { s with resp := some { r := s.entType.setWidth 32 } }

/-- R173, R182: the width function under both masks; under 0xFE the value 1 gets width 0. -/
def Obligations.EncoderWidthTable : Prop :=
  ∀ raw : Word,
    (widthBytes (widthOf .ff raw) =
      if raw.toNat = 0 then 0 else if raw.toNat ≤ 0xFF then 1 else if raw.toNat ≤ 0xFFFF then 2 else 4) ∧
    (widthBytes (widthOf .fe raw) =
      if raw.toNat ≤ 1 then 0 else if raw.toNat ≤ 0xFF then 1 else if raw.toNat ≤ 0xFFFF then 2 else 4)

/-- R174, R175: ENT_ENC completes in every state, changes none of it, and answers the tag byte, the
value bytes little-endian, zeros above them, and their count. -/
def Obligations.EntryEncode : Prop :=
  decode 0x00000033#32 = .ok .entEnc ∧
  ∀ s : State, ∃ rb : Window,
    let w := widthOf s.params.w1mask s.svBuf
    exec .entEnc s = .next { s with resp := some { rb := rb, rlen := BitVec.ofNat 3 (1 + widthBytes w) } } ∧
    rb.extractLsb' 0 6 = s.entType.extractLsb' 0 6 ∧
    rb.extractLsb' 6 2 = (match w with | .w0 => 0b00#2 | .w1 => 0b01#2 | .w2 => 0b10#2 | .w4 => 0b11#2) ∧
    (∀ k, k < widthBytes w → rb.extractLsb' (8 * (1 + k)) 8 = s.svBuf.extractLsb' (8 * k) 8) ∧
    (∀ k, widthBytes w < k → k ≤ 4 → rb.extractLsb' (8 * k) 8 = 0)

/-- R177, R180, R181: ENT_DEC of versions 1 to 3 with enough bytes loads type, value and size at once. -/
def Obligations.EntryDecodeVersions1To3 : Prop :=
  ∀ (s : State) (ver avail : Nat), 1 ≤ ver → ver ≤ 3 →
    let t := s.portB.extractLsb' 0 8
    (t.getLsbD 7 = true → 1 ≤ avail →
      exec (.entDec ver avail) s = .next
        { s with entType := t.extractLsb' 0 7, svBuf := 0, svSize := 0, resp := some { rlen := 1 } }) ∧
    (t.getLsbD 7 = false → 5 ≤ avail →
      exec (.entDec ver avail) s = .next
        { s with entType := t.extractLsb' 0 7, svBuf := s.portB.extractLsb' 8 32, svSize := 4,
                 resp := some { rlen := 5 } })

/-- R178, R180, R181: ENT_DEC of version 4 with enough bytes, by the tag's width code. -/
def Obligations.EntryDecodeVersion4 : Prop :=
  ∀ (s : State) (avail : Nat),
    let t := s.portB.extractLsb' 0 8
    let type := BitVec.ofNat 7 ((t.extractLsb' 0 6).toNat + 64)
    (t.extractLsb' 6 2 = 0b00#2 → 1 ≤ avail →
      exec (.entDec 4 avail) s = .next
        { s with entType := type, svBuf := 0, svSize := 0, resp := some { rlen := 1 } }) ∧
    (t.extractLsb' 6 2 = 0b01#2 → 2 ≤ avail →
      exec (.entDec 4 avail) s = .next
        { s with entType := type, svBuf := (s.portB.extractLsb' 8 8).setWidth 32, svSize := 1,
                 resp := some { rlen := 2 } }) ∧
    (t.extractLsb' 6 2 = 0b10#2 → 3 ≤ avail →
      exec (.entDec 4 avail) s = .next
        { s with entType := type, svBuf := (s.portB.extractLsb' 8 16).setWidth 32, svSize := 2,
                 resp := some { rlen := 3 } }) ∧
    (t.extractLsb' 6 2 = 0b11#2 → 5 ≤ avail →
      exec (.entDec 4 avail) s = .next
        { s with entType := type, svBuf := s.portB.extractLsb' 8 32, svSize := 4,
                 resp := some { rlen := 5 } })

/-- R176, R179: ENT_DEC's two faults, in their order, changing nothing but `STATUS` (`fl` is the model's
own record, log 9). -/
def Obligations.EntryDecodeFaults : Prop :=
  ∀ (s : State) (ver avail : Nat),
    let faults := fun (n : BitVec 4) => ∃ fl, exec (.entDec ver avail) s = .next
      { s with
        status := if s.status.fpend then s.status else { fcode := n, fpend := true, fopc := 0x34#8 }
        resp := some { rst := n }
        faultLog := fl }
    let t := s.portB.extractLsb' 0 8
    (ver < 1 ∨ 4 < ver → faults 2#4) ∧
    (1 ≤ ver → ver ≤ 4 → avail = 0 → faults 3#4) ∧
    (1 ≤ ver → ver ≤ 3 → t.getLsbD 7 = false → avail < 5 → faults 3#4) ∧
    (ver = 4 → (t.extractLsb' 6 2 = 0b01#2 ∧ avail < 2) ∨ (t.extractLsb' 6 2 = 0b10#2 ∧ avail < 3) ∨
        (t.extractLsb' 6 2 = 0b11#2 ∧ avail < 5) → faults 3#4)

/-- R183: ENT_ENC then ENT_DEC in version 4 gives the value and its minimal width back, in any state of
any instance whose window starts with the encoded bytes; under the mask 0xFE the value 1 comes back as 0. -/
def Obligations.EntryRoundTrip : Prop :=
  ∀ s u : State, ∃ t, exec .entEnc s = .next t ∧
    ∀ avail, t.response.rlen.toNat ≤ avail →
      (∀ k, k < t.response.rlen.toNat → u.portB.extractLsb' (8 * k) 8 = t.response.rb.extractLsb' (8 * k) 8) →
      (s.params.w1mask = .ff →
        exec (.entDec 4 avail) u = .next
          { u with
            entType := if 64 ≤ s.entType.toNat then s.entType else s.entType + 64
            svBuf := s.svBuf
            svSize := BitVec.ofNat 3 (widthBytes (widthOf .ff s.svBuf))
            resp := some { rlen := t.response.rlen } }) ∧
      (s.params.w1mask = .fe → s.svBuf = 1 →
        ∃ v, exec (.entDec 4 avail) u = .next v ∧ v.svBuf = 0 ∧ v.svSize = 0)

/-- R85: the type code of the version-4 tag byte is `(type - 64) & 0x3F`, which is `type & 0x3F`; a type
in 64..127 survives the tag byte, and one in 0..63 comes back as itself plus 64. -/
def Obligations.TypeCodeThroughTheTag : Prop :=
  ∀ (ty : BitVec 7) (w : Width),
    (tagByte ty w).extractLsb' 0 6 = (ty - 64#7).extractLsb' 0 6 ∧
    (tagByte ty w).extractLsb' 0 6 = ty.extractLsb' 0 6 ∧
    (decodeTag 4 (tagByte ty w)).2 = w ∧
    (64 ≤ ty.toNat → (decodeTag 4 (tagByte ty w)).1 = ty) ∧
    (ty.toNat < 64 → (decodeTag 4 (tagByte ty w)).1 = ty + 64)

/-! ### The frame destuffer -/

/-- R200: DS_RST starts a fresh scan and leaves `DSO` and all else alone. -/
def Obligations.ScanReset : Prop :=
  decode 0x00000040#32 = .ok .dsRst ∧
  ∀ s : State, exec .dsRst s = .next { s with dsWc := 0, dsRest := 0, dsZf := false, resp := some {} }

/-- R201: a delimiter ends the frame, delivers it iff it has more than 3 bytes, and clears the cursor and the flag. -/
def Obligations.DelimiterEndsTheFrame : Prop :=
  decode 0x00000041#32 = .ok .dsPush ∧
  ∀ s : State, s.dsRest = 0 → s.portA.extractLsb' 0 8 = 0 → s.dsWc.toNat ≤ 256 →
    (3 < s.dsWc.toNat → exec .dsPush s = .next
      { s with
        dsWc := 0
        dsZf := false
        resp := some { fv := true, flen := s.dsWc, fdata := (List.range s.dsWc.toNat).map (dsoByte s) } }) ∧
    (s.dsWc.toNat ≤ 3 → exec .dsPush s = .next { s with dsWc := 0, dsZf := false, resp := some {} })

/-- R202: a length byte starts a block of `b - 1` data bytes, after a substituted zero if the flag is
set, and the flag afterwards follows `P_COBS_FF`. -/
def Obligations.LengthByteStartsABlock : Prop :=
  ∀ s : State, s.dsRest = 0 → s.portA.extractLsb' 0 8 ≠ 0 →
    let b := s.portA.extractLsb' 0 8
    let zf := match s.params.cobsFF with
      | .plain => true
      | .classic => decide (b ≠ 0xFF#8)
    (s.dsZf = false → exec .dsPush s = .next
      { s with dsRest := BitVec.ofNat 8 (b.toNat - 1), dsZf := zf, resp := some {} }) ∧
    (s.dsZf = true → s.dsWc.toNat < 256 → ∃ t, exec .dsPush s = .next t ∧
      t = { s with dso := t.dso, dsWc := BitVec.ofNat 9 (s.dsWc.toNat + 1),
                   dsRest := BitVec.ofNat 8 (b.toNat - 1), dsZf := zf, resp := some {} } ∧
      dsoByte t s.dsWc.toNat = 0 ∧ ∀ i, i ≠ s.dsWc.toNat → dsoByte t i = dsoByte s i)

/-- R203: a data byte is copied whatever its value, a zero among them. -/
def Obligations.DataByteIsCopied : Prop :=
  ∀ s : State, s.dsRest ≠ 0 → s.dsWc.toNat < 256 → ∃ t, exec .dsPush s = .next t ∧
    t = { s with dso := t.dso, dsWc := BitVec.ofNat 9 (s.dsWc.toNat + 1),
                 dsRest := BitVec.ofNat 8 (s.dsRest.toNat - 1), resp := some {} } ∧
    dsoByte t s.dsWc.toNat = s.portA.extractLsb' 0 8 ∧
    ∀ i, i ≠ s.dsWc.toNat → dsoByte t i = dsoByte s i

/-- R204: a byte rule that would write a 257th byte raises `FrameOverflow` and changes nothing but
`STATUS`; while data bytes are due every byte faults so, and otherwise a delimiter delivers the 256 bytes held
(`fl` is the model's own record, log 9). -/
def Obligations.OverflowIsPrecise : Prop :=
  ∀ s : State, s.dsWc = 256#9 →
    (s.dsRest ≠ 0 ∨ (s.portA.extractLsb' 0 8 ≠ 0 ∧ s.dsZf = true) →
      ∃ fl, exec .dsPush s = .next
        { s with
          status := if s.status.fpend then s.status else { fcode := 4#4, fpend := true, fopc := 0x41#8 }
          resp := some { rst := 4#4 }
          faultLog := fl }) ∧
    (s.dsRest = 0 → s.portA.extractLsb' 0 8 = 0 → ∃ t, exec .dsPush s = .next t ∧
      t.resp = some { fv := true, flen := 256#9, fdata := (List.range 256).map (dsoByte s) })

/-- R207: the word DS_STAT answers, field by field. -/
def Obligations.ScanStateRead : Prop :=
  decode 0x00000042#32 = .ok .dsStat ∧
  ∀ s : State, ∃ r : Word, exec .dsStat s = .next { s with resp := some { r := r } } ∧
    r.extractLsb' 0 9 = s.dsWc ∧ r.extractLsb' 9 7 = 0 ∧ r.extractLsb' 16 8 = s.dsRest ∧
    r.getLsbD 24 = s.dsZf ∧ r.extractLsb' 25 7 = 0

/-- R206, R208: only a delimiter of a frame of more than 3 bytes delivers; every other response has a
quiet frame port. -/
def Obligations.FramesOnlyAtDelimiters : Prop :=
  ∀ (s t : State) (c : Command) (rest : List Command), s.pending = c :: rest → step s = .next t →
    (t.response.fv = true → c.cmd = 0x00000041#32 ∧ c.a.extractLsb' 0 8 = 0 ∧ s.dsRest = 0 ∧ 3 < s.dsWc.toNat) ∧
    (t.response.fv = false → t.response.flen = 0 ∧ t.response.fdata = [])

/-- R210, R24: in a state a run can reach, a delivered frame has 4 to 256 bytes, and each of them is a
byte that was written, so no delivery shows an unspecified byte. -/
def Obligations.DeliveredFramesAreWritten : Prop :=
  ∀ s t : State, s.Inv → step s = .next t → t.response.fv = true →
    4 ≤ t.response.flen.toNat ∧ t.response.flen.toNat ≤ 256 ∧ t.response.fdata.length = t.response.flen.toNat ∧
    ∀ k, k < t.response.flen.toNat → s.dso.read k = t.response.fdata[k]?

/-- R209: under PLAIN a frame of blocks, pushed at the start of a scan, is delivered once, at its
delimiter, with a zero between the blocks' data, if it has more than 3 bytes, and the scan starts afresh. -/
def Obligations.PlainFrameDecoding : Prop :=
  ∀ (s : State) (blocks : List (List Byte)), s.params.cobsFF = .plain →
    s.dsWc = 0 → s.dsRest = 0 → s.dsZf = false → (∀ d ∈ blocks, d.length ≤ 254) →
    let frame := List.intercalate [0x00#8] blocks
    frame.length ≤ 256 →
    ∃ t, feed (stuffBlocks blocks ++ [0x00#8]) s = some (t, if 3 < frame.length then [frame] else []) ∧
      t.dsWc = 0 ∧ t.dsRest = 0 ∧ t.dsZf = false ∧ t.faultLog = s.faultLog ∧ t.status = s.status

/-- R86: the same under either setting, with no zero after a block whose length byte was 0xFF under CLASSIC. -/
def Obligations.StuffedFrameDecoding : Prop :=
  ∀ (s : State) (blocks : List (List Byte)),
    s.dsWc = 0 → s.dsRest = 0 → s.dsZf = false → (∀ d ∈ blocks, d.length ≤ 254) →
    let frame := joinBlocks s.params.cobsFF blocks
    frame.length ≤ 256 →
    ∃ t, feed (stuffBlocks blocks ++ [0x00#8]) s = some (t, if 3 < frame.length then [frame] else []) ∧
      t.dsWc = 0 ∧ t.dsRest = 0 ∧ t.dsZf = false ∧ t.faultLog = s.faultLog ∧ t.status = s.status

/-! ### System commands and reset -/

/-- R28, R230, R232, R233: NOP, and the fault record's read and clear. -/
def Obligations.NopAndStatusCommands : Prop :=
  decode 0x00000000#32 = .ok .nop ∧ decode 0x00000002#32 = .ok .statRd ∧ decode 0x00000003#32 = .ok .statClr ∧
  ∀ s : State,
    exec .nop s = .next { s with resp := some {} } ∧
    (∃ r : Word, exec .statRd s = .next { s with resp := some { r := r } } ∧
      r.extractLsb' 0 4 = s.status.fcode ∧ r.getLsbD 4 = s.status.fpend ∧ r.extractLsb' 5 3 = 0 ∧
      r.extractLsb' 8 8 = s.status.fopc ∧ r.extractLsb' 16 16 = 0) ∧
    ∃ t, exec .statClr s = .next t ∧ t = { s with status := t.status, resp := some {} } ∧
      ∃ u, exec .statRd t = .next u ∧ u.resp = some { r := 0 }

/-- R231, R280: after SYS_RST every state element holds its reset value, whatever the state before. -/
def Obligations.SystemReset : Prop :=
  decode 0x00000001#32 = .ok .sysRst ∧
  ∀ s : State, ∃ t, exec .sysRst s = .next t ∧
    t.svBuf = State.reset.svBuf ∧ t.svSize = State.reset.svSize ∧ t.entType = State.reset.entType ∧
    t.dsWc = State.reset.dsWc ∧ t.dsRest = State.reset.dsRest ∧ t.dsZf = State.reset.dsZf ∧
    t.status = State.reset.status ∧ t.resp = some {} ∧ t.params = s.params ∧ t.pending = s.pending

/-- R31: the reset values the spec gives. -/
def Obligations.ResetValues : Prop :=
  State.reset.svBuf = 0x00000000#32 ∧ State.reset.svSize = 0 ∧ State.reset.entType = 0x40#7 ∧
  State.reset.dsWc = 0 ∧ State.reset.dsRest = 0 ∧ State.reset.dsZf = false ∧
  statusWord State.reset.status = 0x00000000#32

/-- R281: after a reset, ENT_ENC answers the one byte 0x00. -/
def Obligations.EncodeAfterReset : Prop :=
  ∀ s : State, ∃ t, exec .sysRst s = .next t ∧
    exec .entEnc t = .next { t with resp := some { rb := 0x0000000000#40, rlen := 1 } }

/-- R57: the read-type commands leave all state unchanged and answer the same twice; the writes of the
rule are idempotent (SYS_RST up to the unspecified `DSO`); DS_PUSH is not. -/
def Obligations.ReadsAndIdempotentWrites : Prop :=
  (∀ (i : Instr) (s : State),
    i ∈ [Instr.svRdU8, .svRdI8, .svRdU16, .svRdI16, .svRdU32, .svRdI32, .svRdF32, .svRdF16, .svRdSize,
         .entRdType, .entEnc, .statRd, .dsStat] →
    ∃ t, exec i s = .next t ∧ t = { s with resp := t.resp } ∧ exec i t = .next t) ∧
  (∀ (i : Instr) (s : State),
    i ∈ [Instr.svWrU8, .svWrI8, .svWrU16, .svWrI16, .svWrU32, .svWrI32, .svWrF32, .svWrF16,
         .entWrType, .entClr, .dsRst, .statClr] →
    ∃ t, exec i s = .next t ∧ exec i t = .next t) ∧
  (∀ s : State, ∃ t u, exec .sysRst s = .next t ∧ exec .sysRst t = .next u ∧
    u = { t with dsoEpoch := u.dsoEpoch }) ∧
  ∃ s t u : State, exec .dsPush s = .next t ∧ exec .dsPush t = .next u ∧ u.dsWc ≠ t.dsWc

/-! ### Frames: who writes each state element -/

/-- R20, R21, R23: only the writers those rules name change `SV_BUF`, `SV_SIZE` and `ENT_TYPE`. -/
def Obligations.WritersOfTheEntry : Prop :=
  ∀ (i : Instr) (s t : State), exec i s = .next t →
    (i ∉ [Instr.svWrU8, .svWrI8, .svWrU16, .svWrI16, .svWrU32, .svWrI32, .svWrF32, .svWrF16, .entClr, .sysRst] →
      (∀ ver avail, i ≠ .entDec ver avail) → t.svBuf = s.svBuf ∧ t.svSize = s.svSize) ∧
    (i ∉ [Instr.entWrType, .entClr, .sysRst] → (∀ ver avail, i ≠ .entDec ver avail) →
      t.entType = s.entType)

/-- R25, R26, R27, R31: only DS_PUSH, DS_RST and SYS_RST change the scan state. -/
def Obligations.WritersOfTheScanState : Prop :=
  ∀ (i : Instr) (s t : State), exec i s = .next t → i ∉ [Instr.dsPush, .dsRst, .sysRst] →
    t.dsWc = s.dsWc ∧ t.dsRest = s.dsRest ∧ t.dsZf = s.dsZf

/-- R24: "DS_PUSH writes only `DSO.byte[DS_WC]`", and only where a byte rule puts; no other command
but SYS_RST, after which `DSO` is unspecified, changes a byte of `DSO`. -/
def Obligations.WritersOfTheScratchArray : Prop :=
  (∀ (i : Instr) (s t : State), exec i s = .next t → i ≠ .dsPush → i ≠ .sysRst → SameDso s t) ∧
  (∀ s t : State, exec .dsPush s = .next t → ∀ a, a ≠ putIndex s → dsoByte t a = dsoByte s a) ∧
  (∀ s t : State, exec .dsPush s = .next t → ¬ wouldPut s → SameDso s t)

/-- R28, R253: `STATUS` changes only by a fault, STAT_CLR and SYS_RST. -/
def Obligations.WritersOfStatus : Prop :=
  ∀ (i : Instr) (s t : State), exec i s = .next t → t.response.rst = 0 → i ≠ .statClr → i ≠ .sysRst →
    t.status = s.status ∧ t.faultLog = s.faultLog

/-- R3, R29: no step changes the parameters. D7: the model's own record (log 9) keeps every fault, and a
step adds to it exactly the fault its response reports. -/
def Obligations.ParametersAndFaultRecord : Prop :=
  ∀ s t : State, step s = .next t →
    t.params = s.params ∧ t.pending = s.pending.tail ∧
    (t.response.rst = 0 → t.faultLog = s.faultLog) ∧
    ∀ c rest, s.pending = c :: rest → t.response.rst ≠ 0 →
      ∃ code, faultCode code = t.response.rst ∧
        t.faultLog = s.faultLog ++ [{ code := code, opc := c.cmd.extractLsb' 0 8 }]

/-! ### The invariant -/

/-- R31: the invariant holds after reset. -/
def Obligations.ResetMeetsTheInvariant : Prop := State.reset.Inv

/-- R21, R22, R24 to R26, R28, R252: from every state that meets the invariant the block goes on, and the
next state meets it: it never stops. -/
def Obligations.StepGoesOnAndKeepsTheInvariant : Prop :=
  ∀ s : State, s.Inv → ∃ t, step s = .next t ∧ t.Inv

/-! ### The assembler -/

/-- R78: `ENT_DEC vN, [b0, …]` issues ENT_DEC with `VER = N`, `AVAIL` the count, the bytes on the window
and zeros above them. -/
def Obligations.AssembledEntryDecode : Prop :=
  ∀ (ver : Nat) (bs : List Byte), ver < 8 → bs.length ≤ 5 → ∃ c : Command,
    assembleCommand (.entDec 0 0) [.version ver, .bytes (bs.map fun b => (b.toNat : Int))] = .ok c ∧
    decode c.cmd = .ok (.entDec ver bs.length) ∧
    (∀ k, k < bs.length → some (c.b.extractLsb' (8 * k) 8) = bs[k]?) ∧
    (∀ k, bs.length ≤ k → k < 5 → c.b.extractLsb' (8 * k) 8 = 0)

/-- R79: the four pseudo-instructions: DS_FEED issues one DS_PUSH a byte, in order, DS_DECODE a DS_RST
before them, ENT_SET an ENT_WR_TYPE and an SV_WR_U32, ENT_NEW an ENT_CLR. -/
def Obligations.PseudoInstructionExpansions : Prop :=
  (∀ bs : List Byte, bs ≠ [] →
    let pushes := bs.map fun b => ({ cmd := 0x00000041#32, a := b.setWidth 32, b := 0 } : Command)
    let operands := bs.map fun b => AsmOperand.bare (b.toNat : Int)
    assembleWord "DS_FEED".toList operands = .ok pushes ∧
    assembleWord "DS_DECODE".toList operands = .ok ({ cmd := 0x00000040#32, a := 0, b := 0 } :: pushes)) ∧
  (∀ (c : BitVec 7) (v : Word),
    assembleWord "ENT_SET".toList [.char c.toNat, .imm (v.toNat : Int)] = .ok
      [{ cmd := 0x00000031#32, a := c.setWidth 32, b := 0 }, { cmd := 0x00000014#32, a := v, b := 0 }]) ∧
  assembleWord "ENT_NEW".toList [] = .ok [{ cmd := 0x00000030#32, a := 0, b := 0 }]
end

