-- ==== Sys2Proof/Laws/Binary16.lean ====
section
/-! SUPPORT. H2F and F2H by the fields of their results: each is its sign, exponent and fraction fields
laid side by side, so that later proofs read a field off instead of unfolding shifts. -/

namespace Sys2Proof.Machine

/-- A half by its fields (30_encoding.md R80). -/
def halfOf (s : BitVec 1) (e : BitVec 5) (f : BitVec 10) : Half :=
  (s.setWidth 16 <<< 15) ||| (e.setWidth 16 <<< 10) ||| f.setWidth 16

/-- A single by its fields, the fraction as its high 10 and low 13 bits (30_encoding.md R81). -/
def singleOf (s : BitVec 1) (e : BitVec 8) (f : BitVec 10) (g : BitVec 13) : Word :=
  (s.setWidth 32 <<< 31) ||| (e.setWidth 32 <<< 23) ||| (f.setWidth 32 <<< 13) ||| g.setWidth 32

/-- `F[22:13]`, the part of a single's fraction that F2H keeps. -/
def singleFracHigh (x : Word) : BitVec 10 := x.extractLsb' 13 10

/-- `F[12:0]`, the part of a single's fraction that F2H drops. -/
def singleFracLow (x : Word) : BitVec 13 := x.extractLsb' 0 13

/-! ### Reading a field of a layout, and laying out the fields -/

theorem halfOf_fields (h : Half) : halfOf (halfSign h) (halfExp h) (halfFrac h) = h := by
  ext i hi
  simp only [halfOf, halfSign, halfExp, halfFrac]
  interval_cases i <;> simp

theorem singleOf_fields (x : Word) :
    singleOf (singleSign x) (singleExp x) (singleFracHigh x) (singleFracLow x) = x := by
  ext i hi
  simp only [singleOf, singleSign, singleExp, singleFracHigh, singleFracLow]
  interval_cases i <;> simp

section Layout
variable (s : BitVec 1) (e : BitVec 5) (e' : BitVec 8) (f : BitVec 10) (g : BitVec 13)

@[simp] theorem halfSign_halfOf : halfSign (halfOf s e f) = s := by
  ext i hi
  simp only [halfSign, halfOf]
  interval_cases i
  simp

@[simp] theorem halfExp_halfOf : halfExp (halfOf s e f) = e := by
  ext i hi
  simp only [halfExp, halfOf]
  interval_cases i <;> simp

@[simp] theorem halfFrac_halfOf : halfFrac (halfOf s e f) = f := by
  ext i hi
  simp only [halfFrac, halfOf]
  interval_cases i <;> simp

@[simp] theorem singleSign_singleOf : singleSign (singleOf s e' f g) = s := by
  ext i hi
  simp only [singleSign, singleOf]
  interval_cases i
  simp

@[simp] theorem singleExp_singleOf : singleExp (singleOf s e' f g) = e' := by
  ext i hi
  simp only [singleExp, singleOf]
  interval_cases i <;> simp

@[simp] theorem singleFracHigh_singleOf : singleFracHigh (singleOf s e' f g) = f := by
  ext i hi
  simp only [singleFracHigh, singleOf]
  interval_cases i <;> simp

@[simp] theorem singleFracLow_singleOf : singleFracLow (singleOf s e' f g) = g := by
  ext i hi
  simp only [singleFracLow, singleOf]
  interval_cases i <;> simp

end Layout

/-! ### The two functions -/

/-- The exponent field H2F gives a half exponent (R141 to R145). -/
def singleExpOfHalf (e : BitVec 5) : BitVec 8 :=
  if e = 0 then 0 else if e = 0x1F#5 then 0xFF#8 else e.setWidth 8 + 112#8

/-- The exponent field F2H gives a single exponent under a clamp (R151 to R155). -/
def halfExpOfSingle (c : Clamp) (e : BitVec 8) : BitVec 5 :=
  if e = 0 then 0 else if e = 0xFF#8 then 0x1F#5
  else match c with
    | .asWritten => 0x1F#5
    | .corrected => if e.toNat ≤ 112 then 0 else if e.toNat ≤ 142 then BitVec.ofNat 5 (e.toNat - 112) else 0x1F#5

/-- H2F by the fields of its result: the sign is dropped for a zero only (R141). -/
theorem h2f_eq_fields (h : Half) :
    h2f h = singleOf (if halfExp h = 0 ∧ halfFrac h = 0 then 0#1 else halfSign h)
      (singleExpOfHalf (halfExp h)) (halfFrac h) 0#13 := by
  have hexp : ∀ e : BitVec 5, ¬ e = 0 → ¬ e = 0x1F#5 →
      e.setWidth 32 + 112#32 = (singleExpOfHalf e).setWidth 32 := by decide
  unfold singleOf
  by_cases he : halfExp h = 0
  · by_cases hf : halfFrac h = 0
    · simp only [h2f, he, hf, and_self, if_true, singleExpOfHalf]
      decide
    · simp only [h2f, he, hf, and_false, if_true, if_false, singleExpOfHalf]
      simp
  · by_cases h1 : halfExp h = 0x1F#5
    · by_cases hf : halfFrac h = 0
      · simp only [h2f, h1, hf, if_true, singleExpOfHalf]
        simp
      · simp only [h2f, h1, hf, if_true, if_false, singleExpOfHalf]
        simp
    · simp only [h2f, he, h1, false_and, if_false]
      rw [hexp _ he h1]
      simp

/-- The clamp as a five-bit field (R153, R154). -/
theorem halfExponent_eq_field : ∀ (c : Clamp) (e : BitVec 8), ¬ e = 0 → ¬ e = 0xFF#8 →
    BitVec.ofInt 16 (halfExponent c e) = (halfExpOfSingle c e).setWidth 16 := by
  intro c
  cases c <;> decide

/-- F2H by the fields of its result (R151, R152, R155): the sign is carried and the fraction truncated. -/
theorem f2h_eq_fields (c : Clamp) (x : Word) :
    f2h c x = halfOf (singleSign x) (halfExpOfSingle c (singleExp x)) (singleFracHigh x) := by
  have hf : (singleFrac x >>> 13).setWidth 16 = (singleFracHigh x).setWidth 16 := by
    ext i hi
    simp only [singleFrac, singleFracHigh]
    interval_cases i <;> simp
  unfold halfOf
  by_cases h0 : singleExp x = 0
  · simp only [f2h, h0, if_true, halfExpOfSingle, hf]
    simp
  · by_cases h1 : singleExp x = 0xFF#8
    · simp only [f2h, h1, halfExpOfSingle, hf]
      simp
    · simp only [f2h, h0, h1, if_false, hf]
      rw [halfExponent_eq_field c _ h0 h1]

end Sys2Proof.Machine
end

