-- ==== Sys2Proof/Laws/State.lean ====
section
/-! SUPPORT. One lemma per field per update of State, true by rfl: no later proof unfolds a record
update. `reset_…` say what the state after reset holds. -/

namespace Sys2Proof.Machine

/-! The ports are read through `operands` and `resp`: the accessors rewrite to these fields. -/

@[simp] theorem portA_eq (s : State) : s.portA = sampledA s.operands := rfl
@[simp] theorem portB_eq (s : State) : s.portB = sampledB s.operands := rfl
@[simp] theorem sampledA_some (o : Operands) : sampledA (some o) = o.a := rfl
@[simp] theorem sampledB_some (o : Operands) : sampledB (some o) = o.b := rfl
@[simp] theorem response_eq (s : State) : s.response = s.resp.getD {} := rfl

section Raise
variable (code : FaultCode) (opc : Byte) (s : State)
@[simp] theorem raise_svBuf : (raise code opc s).svBuf = s.svBuf := rfl
@[simp] theorem raise_svSize : (raise code opc s).svSize = s.svSize := rfl
@[simp] theorem raise_entType : (raise code opc s).entType = s.entType := rfl
@[simp] theorem raise_dso : (raise code opc s).dso = s.dso := rfl
@[simp] theorem raise_dsWc : (raise code opc s).dsWc = s.dsWc := rfl
@[simp] theorem raise_dsRest : (raise code opc s).dsRest = s.dsRest := rfl
@[simp] theorem raise_dsZf : (raise code opc s).dsZf = s.dsZf := rfl
@[simp] theorem raise_status : (raise code opc s).status = recordFault code opc s.status := rfl
@[simp] theorem raise_params : (raise code opc s).params = s.params := rfl
@[simp] theorem raise_pending : (raise code opc s).pending = s.pending := rfl
@[simp] theorem raise_operands : (raise code opc s).operands = s.operands := rfl
@[simp] theorem raise_resp : (raise code opc s).resp = some { rst := faultCode code } := rfl
@[simp] theorem raise_dsoEpoch : (raise code opc s).dsoEpoch = s.dsoEpoch := rfl
@[simp] theorem raise_faultLog : (raise code opc s).faultLog = s.faultLog ++ [{ code := code, opc := opc }] := rfl
theorem raise_response : (raise code opc s).response = { rst := faultCode code } := rfl
end Raise

section ClearStatus
variable (s : State)
@[simp] theorem clearStatus_svBuf : (clearStatus s).svBuf = s.svBuf := rfl
@[simp] theorem clearStatus_svSize : (clearStatus s).svSize = s.svSize := rfl
@[simp] theorem clearStatus_entType : (clearStatus s).entType = s.entType := rfl
@[simp] theorem clearStatus_dso : (clearStatus s).dso = s.dso := rfl
@[simp] theorem clearStatus_dsWc : (clearStatus s).dsWc = s.dsWc := rfl
@[simp] theorem clearStatus_dsRest : (clearStatus s).dsRest = s.dsRest := rfl
@[simp] theorem clearStatus_dsZf : (clearStatus s).dsZf = s.dsZf := rfl
@[simp] theorem clearStatus_status : (clearStatus s).status = Status.zero := rfl
@[simp] theorem clearStatus_params : (clearStatus s).params = s.params := rfl
@[simp] theorem clearStatus_pending : (clearStatus s).pending = s.pending := rfl
@[simp] theorem clearStatus_operands : (clearStatus s).operands = s.operands := rfl
@[simp] theorem clearStatus_resp : (clearStatus s).resp = s.resp := rfl
@[simp] theorem clearStatus_dsoEpoch : (clearStatus s).dsoEpoch = s.dsoEpoch := rfl
@[simp] theorem clearStatus_faultLog : (clearStatus s).faultLog = s.faultLog := rfl
end ClearStatus

section ResetElements
variable (s : State)
@[simp] theorem resetElements_svBuf : (resetElements s).svBuf = 0x00000000#32 := rfl
@[simp] theorem resetElements_svSize : (resetElements s).svSize = 0#3 := rfl
@[simp] theorem resetElements_entType : (resetElements s).entType = 0x40#7 := rfl
@[simp] theorem resetElements_dso : (resetElements s).dso = [] := rfl
@[simp] theorem resetElements_dsWc : (resetElements s).dsWc = 0#9 := rfl
@[simp] theorem resetElements_dsRest : (resetElements s).dsRest = 0#8 := rfl
@[simp] theorem resetElements_dsZf : (resetElements s).dsZf = false := rfl
@[simp] theorem resetElements_status : (resetElements s).status = Status.zero := rfl
@[simp] theorem resetElements_params : (resetElements s).params = s.params := rfl
@[simp] theorem resetElements_pending : (resetElements s).pending = s.pending := rfl
@[simp] theorem resetElements_operands : (resetElements s).operands = s.operands := rfl
@[simp] theorem resetElements_resp : (resetElements s).resp = s.resp := rfl
@[simp] theorem resetElements_dsoEpoch : (resetElements s).dsoEpoch = s.dsoEpoch + 1 := rfl
@[simp] theorem resetElements_faultLog : (resetElements s).faultLog = s.faultLog := rfl
end ResetElements

section Sample
variable (c : Command) (rest : List Command) (s : State)
@[simp] theorem sample_svBuf : (sample c rest s).svBuf = s.svBuf := rfl
@[simp] theorem sample_svSize : (sample c rest s).svSize = s.svSize := rfl
@[simp] theorem sample_entType : (sample c rest s).entType = s.entType := rfl
@[simp] theorem sample_dso : (sample c rest s).dso = s.dso := rfl
@[simp] theorem sample_dsWc : (sample c rest s).dsWc = s.dsWc := rfl
@[simp] theorem sample_dsRest : (sample c rest s).dsRest = s.dsRest := rfl
@[simp] theorem sample_dsZf : (sample c rest s).dsZf = s.dsZf := rfl
@[simp] theorem sample_status : (sample c rest s).status = s.status := rfl
@[simp] theorem sample_params : (sample c rest s).params = s.params := rfl
@[simp] theorem sample_pending : (sample c rest s).pending = rest := rfl
@[simp] theorem sample_operands : (sample c rest s).operands = some { a := c.a, b := c.b } := rfl
@[simp] theorem sample_resp : (sample c rest s).resp = s.resp := rfl
@[simp] theorem sample_dsoEpoch : (sample c rest s).dsoEpoch = s.dsoEpoch := rfl
@[simp] theorem sample_faultLog : (sample c rest s).faultLog = s.faultLog := rfl
theorem sample_portA : (sample c rest s).portA = c.a := rfl
theorem sample_portB : (sample c rest s).portB = c.b := rfl
end Sample

section ReleaseOperands
variable (s : State)
@[simp] theorem releaseOperands_svBuf : (releaseOperands s).svBuf = s.svBuf := rfl
@[simp] theorem releaseOperands_svSize : (releaseOperands s).svSize = s.svSize := rfl
@[simp] theorem releaseOperands_entType : (releaseOperands s).entType = s.entType := rfl
@[simp] theorem releaseOperands_dso : (releaseOperands s).dso = s.dso := rfl
@[simp] theorem releaseOperands_dsWc : (releaseOperands s).dsWc = s.dsWc := rfl
@[simp] theorem releaseOperands_dsRest : (releaseOperands s).dsRest = s.dsRest := rfl
@[simp] theorem releaseOperands_dsZf : (releaseOperands s).dsZf = s.dsZf := rfl
@[simp] theorem releaseOperands_status : (releaseOperands s).status = s.status := rfl
@[simp] theorem releaseOperands_params : (releaseOperands s).params = s.params := rfl
@[simp] theorem releaseOperands_pending : (releaseOperands s).pending = s.pending := rfl
@[simp] theorem releaseOperands_operands : (releaseOperands s).operands = none := rfl
@[simp] theorem releaseOperands_resp : (releaseOperands s).resp = s.resp := rfl
@[simp] theorem releaseOperands_dsoEpoch : (releaseOperands s).dsoEpoch = s.dsoEpoch := rfl
@[simp] theorem releaseOperands_faultLog : (releaseOperands s).faultLog = s.faultLog := rfl
theorem releaseOperands_response : (releaseOperands s).response = s.response := rfl
end ReleaseOperands

section Idle
variable (s : State)
@[simp] theorem idle_svBuf : (idle s).svBuf = s.svBuf := rfl
@[simp] theorem idle_svSize : (idle s).svSize = s.svSize := rfl
@[simp] theorem idle_entType : (idle s).entType = s.entType := rfl
@[simp] theorem idle_dso : (idle s).dso = s.dso := rfl
@[simp] theorem idle_dsWc : (idle s).dsWc = s.dsWc := rfl
@[simp] theorem idle_dsRest : (idle s).dsRest = s.dsRest := rfl
@[simp] theorem idle_dsZf : (idle s).dsZf = s.dsZf := rfl
@[simp] theorem idle_status : (idle s).status = s.status := rfl
@[simp] theorem idle_params : (idle s).params = s.params := rfl
@[simp] theorem idle_pending : (idle s).pending = s.pending := rfl
@[simp] theorem idle_operands : (idle s).operands = none := rfl
@[simp] theorem idle_resp : (idle s).resp = none := rfl
@[simp] theorem idle_dsoEpoch : (idle s).dsoEpoch = s.dsoEpoch := rfl
@[simp] theorem idle_faultLog : (idle s).faultLog = s.faultLog := rfl
theorem idle_response : (idle s).response = {} := rfl
end Idle

section StoreByte
variable (v : Byte) (s : State)
@[simp] theorem storeByte_svBuf : (storeByte v s).svBuf = s.svBuf := rfl
@[simp] theorem storeByte_svSize : (storeByte v s).svSize = s.svSize := rfl
@[simp] theorem storeByte_entType : (storeByte v s).entType = s.entType := rfl
@[simp] theorem storeByte_dso : (storeByte v s).dso = s.dso.write (putIndex s) v := rfl
@[simp] theorem storeByte_dsWc : (storeByte v s).dsWc = s.dsWc + 1 := rfl
@[simp] theorem storeByte_dsRest : (storeByte v s).dsRest = s.dsRest := rfl
@[simp] theorem storeByte_dsZf : (storeByte v s).dsZf = s.dsZf := rfl
@[simp] theorem storeByte_status : (storeByte v s).status = s.status := rfl
@[simp] theorem storeByte_params : (storeByte v s).params = s.params := rfl
@[simp] theorem storeByte_pending : (storeByte v s).pending = s.pending := rfl
@[simp] theorem storeByte_operands : (storeByte v s).operands = s.operands := rfl
@[simp] theorem storeByte_resp : (storeByte v s).resp = s.resp := rfl
@[simp] theorem storeByte_dsoEpoch : (storeByte v s).dsoEpoch = s.dsoEpoch := rfl
@[simp] theorem storeByte_faultLog : (storeByte v s).faultLog = s.faultLog := rfl
end StoreByte

section LoadEntry
variable (ty : BitVec 7) (w : Width) (s : State)
@[simp] theorem loadEntry_svBuf : (loadEntry ty w s).svBuf = svWrite (widthBytes w) (windowValue s.portB) 0x00000000#32 := rfl
@[simp] theorem loadEntry_svSize : (loadEntry ty w s).svSize = BitVec.ofNat 3 (widthBytes w) := rfl
@[simp] theorem loadEntry_entType : (loadEntry ty w s).entType = ty := rfl
@[simp] theorem loadEntry_dso : (loadEntry ty w s).dso = s.dso := rfl
@[simp] theorem loadEntry_dsWc : (loadEntry ty w s).dsWc = s.dsWc := rfl
@[simp] theorem loadEntry_dsRest : (loadEntry ty w s).dsRest = s.dsRest := rfl
@[simp] theorem loadEntry_dsZf : (loadEntry ty w s).dsZf = s.dsZf := rfl
@[simp] theorem loadEntry_status : (loadEntry ty w s).status = s.status := rfl
@[simp] theorem loadEntry_params : (loadEntry ty w s).params = s.params := rfl
@[simp] theorem loadEntry_pending : (loadEntry ty w s).pending = s.pending := rfl
@[simp] theorem loadEntry_operands : (loadEntry ty w s).operands = s.operands := rfl
@[simp] theorem loadEntry_resp : (loadEntry ty w s).resp = s.resp := rfl
@[simp] theorem loadEntry_dsoEpoch : (loadEntry ty w s).dsoEpoch = s.dsoEpoch := rfl
@[simp] theorem loadEntry_faultLog : (loadEntry ty w s).faultLog = s.faultLog := rfl
end LoadEntry

@[simp] theorem reset_svBuf : State.reset.svBuf = 0#32 := rfl
@[simp] theorem reset_svSize : State.reset.svSize = 0#3 := rfl
@[simp] theorem reset_entType : State.reset.entType = 0x40#7 := rfl
@[simp] theorem reset_dso : State.reset.dso = [] := rfl
@[simp] theorem reset_dsWc : State.reset.dsWc = 0#9 := rfl
@[simp] theorem reset_dsRest : State.reset.dsRest = 0#8 := rfl
@[simp] theorem reset_dsZf : State.reset.dsZf = false := rfl
@[simp] theorem reset_status : State.reset.status = Status.zero := rfl
@[simp] theorem reset_params : State.reset.params = Params.default := rfl
@[simp] theorem reset_pending : State.reset.pending = [] := rfl
@[simp] theorem reset_operands : State.reset.operands = none := rfl
@[simp] theorem reset_resp : State.reset.resp = none := rfl
@[simp] theorem reset_dsoEpoch : State.reset.dsoEpoch = 0 := rfl
@[simp] theorem reset_faultLog : State.reset.faultLog = [] := rfl

end Sys2Proof.Machine
end

