-- ==== Sys2Proof/Laws/Ops.lean ====
section
/-! SUPPORT. What each shared operation does, said once: the scratch memory's laws, the views of
`SV_BUF`, ending a command, `put`, and the inversion lemmas of DS_PUSH, ENT_DEC and the step. -/

namespace Sys2Proof.Machine

/-! ### Outcomes -/

@[simp] theorem nextState_next (s : State) : nextState (.next s) = some s := rfl
@[simp] theorem nextState_fault (r : Fault) : nextState (.fault r) = none := rfl
@[simp] theorem nextState_refused (r : Refusal) : nextState (.refused r) = none := rfl

@[simp] theorem complete_eq_next (r : Response) (s t : State) :
    complete r s = .next t ↔ t = { s with resp := some r } := by
  simp [complete, eq_comm]

/-! ### The scratch memory -/

@[simp] theorem memory_read_nil (a : Nat) : Memory.read [] a = none := rfl

theorem memory_read_write_same (m : Memory) (a : Nat) (v : Byte) : (m.write a v).read a = some v := by
  induction m with
  | nil => simp [Memory.write, Memory.read]
  | cons c m ih =>
    obtain ⟨k, x⟩ := c
    by_cases h1 : a < k
    · simp [Memory.write, Memory.read, h1]
    · by_cases h2 : a = k
      · simp [Memory.write, Memory.read, h2]
      · simp [Memory.write, Memory.read, h1, h2, ih]

theorem memory_read_write_other (m : Memory) (a b : Nat) (v : Byte) (h : b ≠ a) :
    (m.write a v).read b = m.read b := by
  induction m with
  | nil => simp [Memory.write, Memory.read, h]
  | cons c m ih =>
    obtain ⟨k, x⟩ := c
    by_cases h1 : a < k
    · simp [Memory.write, Memory.read, h1, h]
    · by_cases h2 : a = k
      · simp [Memory.write, Memory.read, h2, h2 ▸ h]
      · simp [Memory.write, Memory.read, h1, h2, ih]

theorem memory_risingAbove_write (m : Memory) (lo a : Nat) (v : Byte) (hm : m.risingAbove lo = true)
    (ha : lo < a) : (m.write a v).risingAbove lo = true := by
  induction m generalizing lo with
  | nil => simpa [Memory.write, Memory.risingAbove] using ha
  | cons c m ih =>
    obtain ⟨k, x⟩ := c
    simp only [Memory.risingAbove, Bool.and_eq_true, decide_eq_true_eq] at hm
    by_cases h1 : a < k
    · simp [Memory.write, Memory.risingAbove, h1, ha, hm.2]
    · by_cases h2 : a = k
      · subst h2
        simp [Memory.write, Memory.risingAbove, ha, hm.2]
      · simp [Memory.write, Memory.risingAbove, h1, h2, hm.1, ih k hm.2 (by omega)]

theorem memory_all_write (m : Memory) (a : Nat) (v : Byte)
    (hm : (m.all fun c => decide (c.1 < dsoSize)) = true) (ha : a < dsoSize) :
    ((m.write a v).all fun c => decide (c.1 < dsoSize)) = true := by
  induction m with
  | nil => simpa [Memory.write] using ha
  | cons c m ih =>
    obtain ⟨k, x⟩ := c
    simp only [List.all_cons, Bool.and_eq_true, decide_eq_true_eq] at hm
    by_cases h1 : a < k
    · simp only [Memory.write, h1, if_true, List.all_cons, Bool.and_eq_true, decide_eq_true_eq]
      exact ⟨ha, hm.1, hm.2⟩
    · by_cases h2 : a = k
      · simp only [Memory.write, h2, lt_irrefl, if_false, if_true, List.all_cons, Bool.and_eq_true, decide_eq_true_eq]
        exact ⟨hm.1, hm.2⟩
      · simp only [Memory.write, h1, h2, if_false, List.all_cons, Bool.and_eq_true, decide_eq_true_eq]
        exact ⟨hm.1, ih hm.2⟩

/-- Every write within the array keeps the canonical form. -/
theorem memory_wf_write (m : Memory) (a : Nat) (v : Byte) (hm : m.wf = true) (ha : a < dsoSize) :
    (m.write a v).wf = true := by
  cases m with
  | nil => simpa [Memory.write, Memory.wf, Memory.risingAbove] using ha
  | cons c m =>
    obtain ⟨k, x⟩ := c
    simp only [Memory.wf, Bool.and_eq_true] at hm
    have hall := memory_all_write ((k, x) :: m) a v hm.2 ha
    by_cases h1 : a < k
    · simp only [Memory.write, h1, if_true] at hall ⊢
      simp [Memory.wf, Memory.risingAbove, h1, hm.1] at hall ⊢
      exact hall
    · by_cases h2 : a = k
      · subst h2
        simp only [Memory.write, lt_irrefl, if_false, if_true] at hall ⊢
        simp only [Memory.wf, Bool.and_eq_true]
        exact ⟨hm.1, hall⟩
      · simp only [Memory.write, h1, h2, if_false] at hall ⊢
        simp only [Memory.wf, Bool.and_eq_true]
        exact ⟨memory_risingAbove_write m k a v hm.1 (by omega), hall⟩

/-- The memory after reset has the canonical form. -/
theorem memory_wf_reset : State.reset.dso.wf = true := rfl

theorem dsoByte_of_read {s : State} {i : Nat} {v : Byte} (h : s.dso.read i = some v) : dsoByte s i = v := by
  simp [dsoByte, h]

theorem dsoByte_storeByte_other (v : Byte) (s : State) (i : Nat) (h : i ≠ putIndex s) :
    dsoByte (storeByte v s) i = dsoByte s i := by
  simp [dsoByte, memory_read_write_other _ _ _ _ h]

theorem dsoByte_storeByte_same (v : Byte) (s : State) : dsoByte (storeByte v s) (putIndex s) = v := by
  simp [dsoByte, memory_read_write_same]

/-! ### The views of `SV_BUF` -/

theorem svRead_one (buf : Word) : svRead 1 buf = (buf.extractLsb' 0 8).setWidth 32 := by
  simp [svRead, svByte]

theorem svRead_two (buf : Word) : svRead 2 buf = (buf.extractLsb' 0 16).setWidth 32 := by
  ext i hi
  simp only [svRead, svByte]
  interval_cases i <;> simp

theorem svRead_four (buf : Word) : svRead 4 buf = buf := by
  ext i hi
  simp only [svRead, svByte]
  interval_cases i <;> simp

theorem svWrite_one (v : Word) : svWrite 1 v 0#32 = (v.extractLsb' 0 8).setWidth 32 := by
  ext i hi
  simp only [svWrite, svSetByte, svByte]
  interval_cases i <;> simp

theorem svWrite_two (v : Word) : svWrite 2 v 0#32 = (v.extractLsb' 0 16).setWidth 32 := by
  ext i hi
  simp only [svWrite, svSetByte, svByte]
  interval_cases i <;> simp

theorem svWrite_four (v buf : Word) : svWrite 4 v buf = v := by
  ext i hi
  simp only [svWrite, svSetByte, svByte]
  interval_cases i <;> simp

/-! ### `put` and DS_PUSH -/

/-- Everything `put` can do: store the byte and go on, take `FrameOverflow`, or stop outside the array. -/
theorem putThen_cases (v : Byte) (s : State) (after : State → Host.Outcome State Fault Refusal) :
    (putIndex s < dsoSize ∧ putThen v s after = after (storeByte v s)) ∨
    (putIndex s = dsoSize ∧ putThen v s after = .next (raise .frameOverflow 0x41#8 s)) ∨
    (dsoSize < putIndex s ∧ putThen v s after = .fault .dsoIndexOutsideArray) := by
  unfold putThen
  rcases lt_trichotomy (putIndex s) dsoSize with h | h | h
  · exact .inl ⟨h, by simp [h.ne, h.not_gt]⟩
  · exact .inr (.inl ⟨h, by simp [h, opcodeOf]⟩)
  · exact .inr (.inr ⟨h, by simp [h, h.ne']⟩)

/-- Everything DS_PUSH can do when it goes on: end the frame (R201), start a block without and with a
substituted zero (R202), copy a data byte (R203), or take `FrameOverflow` (R204). -/
theorem execDsPush_cases {s t : State} (h : execDsPush s = .next t) :
    (s.dsRest = 0 ∧ operandByte s = 0 ∧ s.dsWc.toNat ≤ dsoSize ∧
      t = { s with dsWc := 0, dsZf := false, resp := some (delimiterResponse s) }) ∨
    (s.dsRest = 0 ∧ operandByte s ≠ 0 ∧ s.dsZf = false ∧
      t = { s with dsRest := operandByte s - 1, dsZf := zeroFlagAfterLength s.params.cobsFF (operandByte s), resp := some {} }) ∨
    (s.dsRest = 0 ∧ operandByte s ≠ 0 ∧ s.dsZf = true ∧ putIndex s < dsoSize ∧
      t = { storeByte 0x00#8 s with dsRest := operandByte s - 1, dsZf := zeroFlagAfterLength s.params.cobsFF (operandByte s), resp := some {} }) ∨
    (s.dsRest ≠ 0 ∧ putIndex s < dsoSize ∧
      t = { storeByte (operandByte s) s with dsRest := s.dsRest - 1, resp := some {} }) ∨
    (wouldPut s ∧ putIndex s = dsoSize ∧ t = raise .frameOverflow 0x41#8 s) := by
  unfold execDsPush at h
  by_cases hr : s.dsRest = 0
  · by_cases hb : operandByte s = 0
    · simp only [hr, hb, and_self, if_true, pushDelimiter] at h
      split at h
      · cases h
      · simp only [complete_eq_next] at h
        exact .inl ⟨hr, hb, by omega, by simpa [hr] using h⟩
    · simp only [hr, hb, and_false, if_false, if_true, pushLength] at h
      by_cases hz : s.dsZf = true
      · simp only [hz, if_true] at h
        rcases putThen_cases 0x00#8 s (startBlock (operandByte s)) with ⟨hi, e⟩ | ⟨hi, e⟩ | ⟨hi, e⟩ <;> rw [e] at h
        · simp only [startBlock, complete_eq_next] at h
          exact .inr (.inr (.inl ⟨hr, hb, hz, hi, by simpa using h⟩))
        · injection h with h
          exact .inr (.inr (.inr (.inr ⟨.inr ⟨hb, hz⟩, hi, h.symm⟩)))
        · cases h
      · simp only [hz, startBlock, Bool.false_eq_true, if_false, complete_eq_next] at h
        exact .inr (.inl ⟨hr, hb, by simpa using hz, by simpa using h⟩)
  · simp only [hr, false_and, if_false, pushData] at h
    rcases putThen_cases (operandByte s) s (fun t => complete {} { t with dsRest := t.dsRest - 1 }) with
      ⟨hi, e⟩ | ⟨hi, e⟩ | ⟨hi, e⟩ <;> rw [e] at h
    · simp only [complete_eq_next] at h
      exact .inr (.inr (.inr (.inl ⟨hr, hi, by simpa using h⟩)))
    · injection h with h
      exact .inr (.inr (.inr (.inr ⟨.inl hr, hi, h.symm⟩)))
    · cases h

/-- DS_PUSH goes on whenever `DS_WC` has a legal value. -/
theorem execDsPush_goes_on {s : State} (hw : s.dsWc.toNat ≤ dsoSize) : ∃ t, execDsPush s = .next t := by
  have hno : ¬ dsoSize < s.dsWc.toNat := by omega
  unfold execDsPush
  simp only
  split
  · exact ⟨_, by simp only [pushDelimiter, hno, if_false, complete]; rfl⟩
  · split
    · unfold pushLength
      split
      · rcases putThen_cases 0x00#8 s (startBlock (operandByte s)) with ⟨_, e⟩ | ⟨_, e⟩ | ⟨hi, _⟩
        · exact ⟨_, e⟩
        · exact ⟨_, e⟩
        · exact absurd hi hno
      · exact ⟨_, rfl⟩
    · unfold pushData
      rcases putThen_cases (operandByte s) s (fun t => complete {} { t with dsRest := t.dsRest - 1 }) with
        ⟨_, e⟩ | ⟨_, e⟩ | ⟨hi, _⟩
      · exact ⟨_, e⟩
      · exact ⟨_, e⟩
      · exact absurd hi hno

/-- While the scratch buffer has room, `put` stores the byte and the rule goes on. -/
theorem putThen_room {v : Byte} {s : State} {after : State → Host.Outcome State Fault Refusal}
    (h : putIndex s < dsoSize) : putThen v s after = after (storeByte v s) := by
  have h1 : ¬ putIndex s = dsoSize := by omega
  have h2 : ¬ dsoSize < putIndex s := by omega
  simp only [putThen, h1, h2, if_false]

/-- A byte zero-extended onto `A` is the byte DS_PUSH reads. -/
@[simp] theorem operandByte_setWidth (b : Byte) (w : Window) (s : State) :
    operandByte { s with operands := some { a := b.setWidth 32, b := w } } = b := by
  simp only [operandByte, portA_eq, sampledA_some]
  ext i hi
  have : i < 32 := by omega
  simp [this]
  exact BitVec.getLsbD_eq_getElem hi

/-- Byte `k` of a five-byte port is the `k`-th listed byte, and 0 above the list. -/
theorem windowOfBytes_byte (bs : List Byte) (k : Nat) (hk : k < 5) :
    (windowOfBytes bs).extractLsb' (8 * k) 8 = (bs[k]?).getD 0 := by
  induction bs generalizing k with
  | nil => simp [windowOfBytes]
  | cons b bs ih =>
    cases k with
    | zero =>
      ext i hi
      have h40 : i < 40 := by omega
      simp [windowOfBytes, hi, h40]
    | succ k =>
      rw [List.getElem?_cons_succ, ← ih k (by omega)]
      ext i hi
      have h1 : ¬ 8 * (k + 1) + i < 8 := by omega
      have h2 : 8 * (k + 1) + i < 40 := by omega
      have h3 : 8 * (k + 1) + i - 8 = 8 * k + i := by omega
      have h4 : BitVec.getLsbD b (8 * (k + 1) + i) = false := BitVec.getLsbD_of_ge _ _ (by omega)
      simp [windowOfBytes, h1, h2, h3, h4]
      exact (BitVec.getLsbD_eq_getElem _).symm

/-! ### ENT_DEC -/

/-- Everything ENT_DEC can do: take the fault of the first check that fails, or load the entry whole. -/
theorem execEntDec_cases (ver avail : Nat) (s : State) :
    (∃ code, unpackEntry ver avail s.portB = .error code ∧
      execEntDec ver avail s = .next (raise code 0x34#8 s)) ∨
    (∃ ty w, unpackEntry ver avail s.portB = .ok (ty, w) ∧
      execEntDec ver avail s =
        .next { loadEntry ty w s with resp := some { rlen := BitVec.ofNat 3 (1 + widthBytes w) } }) := by
  unfold execEntDec
  cases h : unpackEntry ver avail s.portB with
  | error code => exact .inl ⟨code, rfl, rfl⟩
  | ok d => exact .inr ⟨d.1, d.2, rfl, rfl⟩

/-- The three ways ENT_DEC's checks come out (R176, R179, R255). -/
theorem unpackEntry_cases (ver avail : Nat) (b : Window) :
    ((ver < 1 ∨ 4 < ver) ∧ unpackEntry ver avail b = .error .unsupportedVersion) ∨
    (1 ≤ ver ∧ ver ≤ 4 ∧ min avail 5 < 1 + widthBytes (decodeTag ver (windowByte b 0)).2 ∧
      unpackEntry ver avail b = .error .truncatedInput) ∨
    (1 ≤ ver ∧ ver ≤ 4 ∧ 1 + widthBytes (decodeTag ver (windowByte b 0)).2 ≤ min avail 5 ∧
      unpackEntry ver avail b = .ok (decodeTag ver (windowByte b 0))) := by
  unfold unpackEntry versionSupported availBytes
  by_cases hv : 1 ≤ ver ∧ ver ≤ 4
  · refine .inr ?_
    simp only [hv.1, hv.2, decide_true, Bool.and_self, Bool.true_eq_false, if_false, true_and]
    by_cases h0 : min avail 5 = 0
    · exact .inl ⟨by omega, by simp [h0]⟩
    · by_cases hw : min avail 5 < 1 + widthBytes (decodeTag ver (windowByte b 0)).2
      · exact .inl ⟨hw, by simp [h0, hw]⟩
      · exact .inr ⟨by omega, by simp [h0, hw]⟩
  · refine .inl ⟨by omega, ?_⟩
    have : (decide (1 ≤ ver) && decide (ver ≤ 4)) = false := by
      simpa [Bool.and_eq_false_iff, not_and_or] using hv
    simp [this]

/-! ### The step -/

/-- A command's step goes on exactly where the command does, with the operand ports released. -/
@[simp] theorem endStep_eq_next (o : Host.Outcome State Fault Refusal) (t : State) :
    endStep o = .next t ↔ ∃ u, o = .next u ∧ t = releaseOperands u := by
  cases o <;> simp [endStep, eq_comm]

/-- Everything a step can do when it goes on: wait, run the oldest command, or raise `IllegalCommand`. -/
theorem step_cases {s t : State} (h : step s = .next t) :
    (s.pending = [] ∧ t = idle s) ∨
    (∃ c rest i u, s.pending = c :: rest ∧ decode c.cmd = .ok i ∧ exec i (sample c rest s) = .next u ∧
      t = releaseOperands u) ∨
    (∃ c rest e, s.pending = c :: rest ∧ decode c.cmd = .error e ∧
      t = releaseOperands (raise .illegalCommand (opcField c.cmd) (sample c rest s))) := by
  unfold step at h
  split at h
  · injection h with h
    exact .inl ⟨‹_›, h.symm⟩
  · obtain ⟨u, hu, ht⟩ := (endStep_eq_next _ _).1 h
    split at hu
    · exact .inr (.inl ⟨_, _, _, u, ‹_›, ‹_›, hu, ht⟩)
    · injection hu with hu
      exact .inr (.inr ⟨_, _, _, ‹_›, ‹_›, by rw [ht, ← hu]; rfl⟩)

end Sys2Proof.Machine
end

