-- ==== Sys2Proof/Laws/PerInstr.lean ====
section
/-! SUPPORT. What holds of every command as syntax, one lemma per constructor: the encoder sets no
reserved bit and puts the command's opcode in `OPC` (30_encoding.md R70, R71). -/

namespace Sys2Proof.Laws.EncodedFields

/-- The encoded word of a well-formed command has its opcode in bits 7:0 and no reserved bit set. -/
def Statement (i : Instr) : Prop :=
  i.WellFormed → opcField (encode i) = opcodeOf i ∧ reservedBits (encode i) = 0

theorem nop : Statement .nop := fun _ => by decide
theorem sysRst : Statement .sysRst := fun _ => by decide
theorem statRd : Statement .statRd := fun _ => by decide
theorem statClr : Statement .statClr := fun _ => by decide
theorem svWrU8 : Statement .svWrU8 := fun _ => by decide
theorem svWrI8 : Statement .svWrI8 := fun _ => by decide
theorem svWrU16 : Statement .svWrU16 := fun _ => by decide
theorem svWrI16 : Statement .svWrI16 := fun _ => by decide
theorem svWrU32 : Statement .svWrU32 := fun _ => by decide
theorem svWrI32 : Statement .svWrI32 := fun _ => by decide
theorem svWrF32 : Statement .svWrF32 := fun _ => by decide
theorem svWrF16 : Statement .svWrF16 := fun _ => by decide
theorem svRdU8 : Statement .svRdU8 := fun _ => by decide
theorem svRdI8 : Statement .svRdI8 := fun _ => by decide
theorem svRdU16 : Statement .svRdU16 := fun _ => by decide
theorem svRdI16 : Statement .svRdI16 := fun _ => by decide
theorem svRdU32 : Statement .svRdU32 := fun _ => by decide
theorem svRdI32 : Statement .svRdI32 := fun _ => by decide
theorem svRdF32 : Statement .svRdF32 := fun _ => by decide
theorem svRdF16 : Statement .svRdF16 := fun _ => by decide
theorem svRdSize : Statement .svRdSize := fun _ => by decide
theorem cvH2F : Statement .cvH2F := fun _ => by decide
theorem cvF2H : Statement .cvF2H := fun _ => by decide
theorem entClr : Statement .entClr := fun _ => by decide
theorem entWrType : Statement .entWrType := fun _ => by decide
theorem entRdType : Statement .entRdType := fun _ => by decide
theorem entEnc : Statement .entEnc := fun _ => by decide
/-- The fields of ENT_DEC stay clear of `OPC` and of the reserved bits: every value of the two fields. -/
theorem entDec_fields : ∀ ver avail : Fin 8,
    opcField (encode (.entDec ver avail)) = 0x34#8 ∧ reservedBits (encode (.entDec ver avail)) = 0 := by
  decide

theorem entDec (ver avail : Nat) : Statement (.entDec ver avail) := by
  intro h
  simp only [Instr.WellFormed, Instr.wf, Bool.and_eq_true, decide_eq_true_eq] at h
  exact entDec_fields ⟨ver, h.1⟩ ⟨avail, h.2⟩
theorem dsRst : Statement .dsRst := fun _ => by decide
theorem dsPush : Statement .dsPush := fun _ => by decide
theorem dsStat : Statement .dsStat := fun _ => by decide

end Sys2Proof.Laws.EncodedFields
end

