-- ==== Sys2Proof/Tests/Slice0.lean ====
section
/-! SUPPORT. Tests whose expected values are those of spec/95_test_vectors.md, of a rule's own example, or
worked out by hand from a rule, and for each statement with hypotheses a concrete case that meets them. -/

namespace Sys2Proof.Tests
open Sys2Proof.Machine

/-! ### Helpers: a small state, and one part of what one command does on it -/

/-- After reset, with `a` on port `A`. -/
def withA (a : Word) : State := { State.reset with operands := some { a := a, b := 0 } }

/-- The start of the Scalar View tables: `SV_BUF = 0xDEADBEEF`, `SV_SIZE = 4`. -/
def beef (a : Word) : State := { withA a with svBuf := 0xDEADBEEF#32, svSize := 4 }

/-- What a write leaves in `SV_BUF` and `SV_SIZE`. -/
def stored (i : Instr) (s : State) : Option (Word × BitVec 3) :=
  (nextState (exec i s)).map fun t => (t.svBuf, t.svSize)

/-- What a command answers on `R`. -/
def answered (i : Instr) (s : State) : Option Word := (nextState (exec i s)).map fun t => t.response.r

/-- A state whose buffer holds `v`. -/
def holding (v : Word) : State := { State.reset with svBuf := v, svSize := 4 }

/-- The converter's answer under a clamp. -/
def converted (c : Clamp) (i : Instr) (a : Word) : Option Word :=
  answered i { withA a with params := { Params.default with clamp := c } }

/-- ENT_ENC's answer: `RB` and `RLEN`. -/
def encoded (m : W1Mask) (ty : BitVec 7) (v : Word) : Option (Window × BitVec 3) :=
  (nextState (exec .entEnc { holding v with entType := ty, params := { Params.default with w1mask := m } })).map
    fun t => (t.response.rb, t.response.rlen)

/-- After reset, with `b` on the entry window. -/
def withB (b : Window) : State := { State.reset with operands := some { a := 0, b := b } }

/-- What an entry command leaves: type, value, size, `RLEN`, `RST` and `STATUS`. -/
structure EntrySeen where
  type   : BitVec 7
  value  : Word
  size   : BitVec 3
  rlen   : BitVec 3
  rst    : BitVec 4
  status : Word
deriving DecidableEq, Repr

/-- What ENT_DEC leaves after reset. -/
def decoded (ver avail : Nat) (b : Window) : Option EntrySeen :=
  (nextState (exec (.entDec ver avail) (withB b))).map fun t =>
    ⟨t.entType, t.svBuf, t.svSize, t.response.rlen, t.response.rst, statusWord t.status⟩

/-- A scan state with the byte `b` on port `A`. -/
def scanning (p : CobsFF) (m : Memory) (wc : BitVec 9) (rest : BitVec 8) (zf : Bool) (b : Byte) : State :=
  { withA (b.setWidth 32) with
    dso := m, dsWc := wc, dsRest := rest, dsZf := zf, params := { Params.default with cobsFF := p } }

/-- What DS_PUSH leaves: the scratch bytes, `DS_WC`, `DS_REST`, `DS_ZF`, `RST`, and the frame it delivers. -/
structure ScanSeen where
  dso   : Memory
  wc    : BitVec 9
  rest  : BitVec 8
  zf    : Bool
  rst   : BitVec 4
  fv    : Bool
  fdata : List Byte
deriving DecidableEq, Repr

/-- What DS_PUSH leaves. -/
def pushed (s : State) : Option ScanSeen :=
  (nextState (exec .dsPush s)).map fun t =>
    ⟨t.dso, t.dsWc, t.dsRest, t.dsZf, t.response.rst, t.response.fv, t.response.fdata⟩

/-- After reset, with the word `w` issued. -/
def issued (w : Word) : State := { State.reset with pending := [{ cmd := w, a := 0, b := 0 }] }

/-- `RST` and `STATUS` after one step. -/
def stepFault (s : State) : Option (BitVec 4 × Word) :=
  (nextState (step s)).map fun t => (t.response.rst, statusWord t.status)

/-! ### WellFormed and decoding -/

theorem test_wf_entDec_limits : (Instr.entDec 7 7).wf = true ∧ (Instr.entDec 0 0).wf = true := by decide
theorem test_wf_refuses_version_8 : (Instr.entDec 8 0).wf = false := by decide
theorem test_wf_refuses_avail_8 : (Instr.entDec 4 8).wf = false := by decide

/-- The words of R74, each family in the table's order. -/
theorem test_decode_system :
    decode 0x00000000#32 = .ok .nop ∧ decode 0x00000001#32 = .ok .sysRst ∧
    decode 0x00000002#32 = .ok .statRd ∧ decode 0x00000003#32 = .ok .statClr := by decide
theorem test_decode_scalar_writes :
    decode 0x00000010#32 = .ok .svWrU8 ∧ decode 0x00000011#32 = .ok .svWrI8 ∧
    decode 0x00000012#32 = .ok .svWrU16 ∧ decode 0x00000013#32 = .ok .svWrI16 ∧
    decode 0x00000014#32 = .ok .svWrU32 ∧ decode 0x00000015#32 = .ok .svWrI32 ∧
    decode 0x00000016#32 = .ok .svWrF32 ∧ decode 0x00000017#32 = .ok .svWrF16 := by decide
theorem test_decode_scalar_reads :
    decode 0x00000018#32 = .ok .svRdU8 ∧ decode 0x00000019#32 = .ok .svRdI8 ∧
    decode 0x0000001A#32 = .ok .svRdU16 ∧ decode 0x0000001B#32 = .ok .svRdI16 ∧
    decode 0x0000001C#32 = .ok .svRdU32 ∧ decode 0x0000001D#32 = .ok .svRdI32 ∧
    decode 0x0000001E#32 = .ok .svRdF32 ∧ decode 0x0000001F#32 = .ok .svRdF16 ∧
    decode 0x00000020#32 = .ok .svRdSize := by decide
theorem test_decode_converter :
    decode 0x00000028#32 = .ok .cvH2F ∧ decode 0x00000029#32 = .ok .cvF2H := by decide
theorem test_decode_entry :
    decode 0x00000030#32 = .ok .entClr ∧ decode 0x00000031#32 = .ok .entWrType ∧
    decode 0x00000032#32 = .ok .entRdType ∧ decode 0x00000033#32 = .ok .entEnc ∧
    decode 0x00005334#32 = .ok (.entDec 3 5) ∧ decode 0x00002434#32 = .ok (.entDec 4 2) := by decide
theorem test_decode_destuffer :
    decode 0x00000040#32 = .ok .dsRst ∧ decode 0x00000041#32 = .ok .dsPush ∧
    decode 0x00000042#32 = .ok .dsStat := by decide

/-- 95_test_vectors.md 2.1. -/
theorem test_decode_refuses :
    decode 0x00000004#32 = .error .unassignedOpcode ∧ decode 0x80000000#32 = .error .reservedBit ∧
    decode 0x00000133#32 = .error .fieldOutsideEntDec ∧ decode 0x00000834#32 = .error .reservedBit ∧
    decode 0x00008034#32 = .error .reservedBit ∧ decode 0x000000FF#32 = .error .unassignedOpcode ∧
    decode 0x00000043#32 = .error .unassignedOpcode := by decide

theorem test_decodeTableWord :
    decodeTableWord 32 0x7034 = some (.entDec 0 7) ∧ decodeTableWord 32 0x43 = none ∧
    decodeTableWord 8 0x41 = some .dsPush := by decide

theorem test_withFetchWord_runs_the_word :
    (nextState (step (State.reset.withFetchWord 32 0x20))).map (fun t => (t.resp, t.pending)) =
      some (some { r := 0 }, []) ∧
    (nextState (step (State.reset.withFetchWord 32 0x31))).map (fun t => t.entType) = some 0 := by decide

/-! ### Faults: 95_test_vectors.md 2.1 and P4 -/

theorem test_illegal_words_fault :
    stepFault (issued 0x00000004#32) = some (1, 0x00000411#32) ∧
    stepFault (issued 0x80000000#32) = some (1, 0x00000011#32) ∧
    stepFault (issued 0x00000133#32) = some (1, 0x00003311#32) ∧
    stepFault (issued 0x00000834#32) = some (1, 0x00003411#32) ∧
    stepFault (issued 0x000000FF#32) = some (1, 0x0000FF11#32) ∧
    stepFault (issued 0x00000000#32) = some (0, 0x00000000#32) := by decide

/-- P4 step 2: the first fault is kept, the second command's `RST` is its own. -/
theorem test_first_fault_kept :
    stepFault { issued 0x00001434#32 with
        pending := [{ cmd := 0x00001434#32, a := 0, b := 0xC1 }]
        status := { fcode := 2, fpend := true, fopc := 0x34 } } =
      some (3, 0x00003412#32) := by decide

/-! ### System commands: 95_test_vectors.md 2.6 -/

theorem test_nop : nextState (exec .nop (beef 5)) = some { beef 5 with resp := some {} } := by decide
theorem test_sysRst :
    (nextState (exec .sysRst { beef 0 with
        status := { fcode := 3, fpend := true, fopc := 0x34 }, entType := 1, dsWc := 2, dsRest := 2, dsZf := true })).map
      (fun t => [t.svBuf, t.svSize.setWidth 32, t.entType.setWidth 32, scanWord t, statusWord t.status]) =
    some [0, 0, 0x40, 0, 0] := by decide
theorem test_statRd :
    answered .statRd { State.reset with status := { fcode := 2, fpend := true, fopc := 0x34 } } =
      some 0x00003412#32 := by decide
theorem test_statClr :
    (nextState (exec .statClr { State.reset with status := { fcode := 4, fpend := true, fopc := 0x41 } })).map
      (fun t => statusWord t.status) = some 0 := by decide

/-! ### Scalar View: 95_test_vectors.md 2.2 -/

theorem test_svWrU8 :
    stored .svWrU8 (beef 0x00000012#32) = some (0x00000012#32, 1) ∧
    stored .svWrU8 (beef 0x000001FF#32) = some (0x000000FF#32, 1) := by decide
theorem test_svWrI8 :
    stored .svWrI8 (beef 0xFFFFFF80#32) = some (0x00000080#32, 1) ∧
    stored .svWrI8 (beef 0xFFFFFFFF#32) = some (0x000000FF#32, 1) := by decide
theorem test_svWrU16 :
    stored .svWrU16 (beef 0x0000012C#32) = some (0x0000012C#32, 2) ∧
    stored .svWrU16 (beef 0x00012345#32) = some (0x00002345#32, 2) := by decide
theorem test_svWrI16 :
    stored .svWrI16 (beef 0xFFFFFFFE#32) = some (0x0000FFFE#32, 2) ∧
    stored .svWrI16 (beef 0xFFFF8000#32) = some (0x00008000#32, 2) := by decide
theorem test_svWrU32 :
    stored .svWrU32 (beef 0x00011170#32) = some (0x00011170#32, 4) ∧
    stored .svWrU32 (beef 0x00000000#32) = some (0x00000000#32, 4) := by decide
theorem test_svWrI32 : stored .svWrI32 (beef 0x80000000#32) = some (0x80000000#32, 4) := by decide
theorem test_svWrF32 : stored .svWrF32 (beef 0x7FC00001#32) = some (0x7FC00001#32, 4) := by decide
theorem test_svWrF16 :
    stored .svWrF16 (beef 0x80000000#32) = some (0x00008000#32, 2) ∧
    stored .svWrF16 (beef 0x3F800000#32) = some (0x00007C00#32, 2) ∧
    stored .svWrF16 (beef 0x7F800001#32) = some (0x00007C00#32, 2) := by decide
theorem test_svWrF16_corrected :
    stored .svWrF16 { beef 0x3F800000#32 with params := { Params.default with clamp := .corrected } } =
      some (0x00003C00#32, 2) := by decide
theorem test_svRdU8 : answered .svRdU8 (beef 0) = some 0x000000EF#32 := by decide
theorem test_svRdI8 :
    answered .svRdI8 (beef 0) = some 0xFFFFFFEF#32 ∧
    answered .svRdI8 (holding 0x0000007F#32) = some 0x0000007F#32 := by decide
theorem test_svRdU16 : answered .svRdU16 (beef 0) = some 0x0000BEEF#32 := by decide
theorem test_svRdI16 :
    answered .svRdI16 (beef 0) = some 0xFFFFBEEF#32 ∧
    answered .svRdI16 (holding 0x00007FFF#32) = some 0x00007FFF#32 := by decide
theorem test_svRdU32 : answered .svRdU32 (beef 0) = some 0xDEADBEEF#32 := by decide
theorem test_svRdI32 : answered .svRdI32 (beef 0) = some 0xDEADBEEF#32 := by decide
theorem test_svRdF32 : answered .svRdF32 (beef 0) = some 0xDEADBEEF#32 := by decide
theorem test_svRdF16 :
    answered .svRdF16 (beef 0) = some 0xBFDDE000#32 ∧
    answered .svRdF16 (holding 0x00008000#32) = some 0x00000000#32 ∧
    answered .svRdF16 (holding 0x0000012C#32) = some 0x00258000#32 := by decide
theorem test_svRdSize :
    answered .svRdSize State.reset = some 0 ∧ answered .svRdSize (beef 0) = some 4 := by decide

/-! ### The converter: 95_test_vectors.md 2.3 -/

theorem test_cvH2F :
    converted .asWritten .cvH2F 0x00008000#32 = some 0x00000000#32 ∧
    converted .asWritten .cvH2F 0x00008001#32 = some 0x80002000#32 ∧
    converted .asWritten .cvH2F 0x000003FF#32 = some 0x007FE000#32 ∧
    converted .asWritten .cvH2F 0x00000400#32 = some 0x38800000#32 ∧
    converted .asWritten .cvH2F 0xFFFF3C00#32 = some 0x3F800000#32 := by decide
theorem test_cvH2F_top :
    converted .corrected .cvH2F 0x0000C000#32 = some 0xC0000000#32 ∧
    converted .corrected .cvH2F 0x00007BFF#32 = some 0x477FE000#32 ∧
    converted .corrected .cvH2F 0x0000FC00#32 = some 0xFF800000#32 ∧
    converted .corrected .cvH2F 0x00007C01#32 = some 0x7F802000#32 ∧
    converted .corrected .cvH2F 0x0000FE00#32 = some 0xFFC00000#32 := by decide
theorem test_cvF2H_asWritten :
    converted .asWritten .cvF2H 0x00002000#32 = some 0x0001#32 ∧
    converted .asWritten .cvF2H 0x80400000#32 = some 0x8200#32 ∧
    converted .asWritten .cvF2H 0x7F800001#32 = some 0x7C00#32 ∧
    converted .asWritten .cvF2H 0x7FFFFFFF#32 = some 0x7FFF#32 ∧
    converted .asWritten .cvF2H 0xC0200000#32 = some 0xFD00#32 ∧
    converted .asWritten .cvF2H 0x00800000#32 = some 0x7C00#32 ∧
    converted .asWritten .cvF2H 0x3EAAAAAB#32 = some 0x7D55#32 := by decide
theorem test_cvF2H_corrected :
    converted .corrected .cvF2H 0xC0200000#32 = some 0xC100#32 ∧
    converted .corrected .cvF2H 0x477FE000#32 = some 0x7BFF#32 ∧
    converted .corrected .cvF2H 0x47802000#32 = some 0x7C01#32 ∧
    converted .corrected .cvF2H 0x38800000#32 = some 0x0400#32 ∧
    converted .corrected .cvF2H 0x38000000#32 = some 0x0000#32 ∧
    converted .corrected .cvF2H 0x3F801FFF#32 = some 0x3C00#32 ∧
    converted .corrected .cvF2H 0x3EAAAAAB#32 = some 0x3555#32 := by decide

/-! ### The entry codec: 95_test_vectors.md W1, W2 and 2.4 -/

theorem test_entClr :
    (nextState (exec .entClr { beef 0 with entType := 1 })).map (fun t => (t.entType, t.svBuf, t.svSize)) =
      some (0x40, 0, 0) := by decide
theorem test_entWrType :
    (nextState (exec .entWrType (withA 0xE1#32))).map (fun t => t.entType) = some 0x61 := by decide
theorem test_entRdType : answered .entRdType State.reset = some 0x40 := by decide
theorem test_entEnc :
    encoded .ff 0x61 5 = some (0x0561#40, 2) ∧ encoded .ff 0x61 300 = some (0x012CA1#40, 3) ∧
    encoded .ff 0x61 70000 = some (0x00011170E1#40, 5) ∧ encoded .ff 0x61 0 = some (0x21#40, 1) ∧
    encoded .ff 0x40 0x100 = some (0x010080#40, 3) ∧ encoded .ff 0x01 0 = some (0x01#40, 1) := by decide
theorem test_entEnc_mask_FE :
    encoded .ff 0x61 1 = some (0x0161#40, 2) ∧ encoded .fe 0x61 1 = some (0x21#40, 1) := by decide
theorem test_entDec :
    decoded 3 5 0x1234567841#40 = some ⟨0x41, 0x12345678#32, 4, 5, 0, 0⟩ ∧
    decoded 4 3 0x00012CA1#40 = some ⟨0x61, 0x0000012C#32, 2, 3, 0, 0⟩ ∧
    decoded 4 5 0x04030201C1#40 = some ⟨0x41, 0x04030201#32, 4, 5, 0, 0⟩ ∧
    decoded 4 7 0x0909090545#40 = some ⟨0x45, 5, 1, 2, 0, 0⟩ ∧
    decoded 3 1 0x00000000C1#40 = some ⟨0x41, 0, 0, 1, 0, 0⟩ ∧
    decoded 2 1 0x0000000080#40 = some ⟨0x00, 0, 0, 1, 0, 0⟩ := by decide
theorem test_entDec_faults :
    decoded 4 1 0x00000000C1#40 = some ⟨0x40, 0, 0, 0, 3, 0x00003413#32⟩ ∧
    decoded 3 4 0x0003020141#40 = some ⟨0x40, 0, 0, 0, 3, 0x00003413#32⟩ ∧
    decoded 4 0 0 = some ⟨0x40, 0, 0, 0, 3, 0x00003413#32⟩ ∧
    decoded 5 2 0 = some ⟨0x40, 0, 0, 0, 2, 0x00003412#32⟩ ∧
    decoded 0 0 0 = some ⟨0x40, 0, 0, 0, 2, 0x00003412#32⟩ := by decide

/-! ### The destuffer: single steps of the streams of 95_test_vectors.md 2.5 and P2, P5 -/

theorem test_dsRst :
    (nextState (exec .dsRst (scanning .plain [(0, 7)] 17 5 true 0))).map
      (fun t => (t.dso, t.dsWc, t.dsRest, t.dsZf)) = some ⟨[(0, 7)], 0, 0, false⟩ := by decide
/-- P2: steps 2 and 6 (a length byte without and with its substituted zero), step 3 (a data byte), and
step 9 (the delimiter). -/
theorem test_dsPush :
    pushed (scanning .plain [] 0 0 false 0x04) = some ⟨[], 0, 3, true, 0, false, []⟩ ∧
    pushed (scanning .plain [(0, 0x80), (1, 0x21), (2, 0x01)] 3 0 true 0x03) =
      some ⟨[(0, 0x80), (1, 0x21), (2, 0x01), (3, 0x00)], 4, 2, true, 0, false, []⟩ ∧
    pushed (scanning .plain [] 0 3 true 0x80) = some ⟨[(0, 0x80)], 1, 2, true, 0, false, []⟩ ∧
    pushed (scanning .plain [(0, 1), (1, 2), (2, 3), (3, 4)] 4 0 true 0x00) =
      some ⟨[(0, 1), (1, 2), (2, 3), (3, 4)], 0, 0, false, 0, true, [1, 2, 3, 4]⟩ := by decide
/-- W3 (three bytes are dropped), P5 step 259 (the 257th byte), and a 0xFF length byte under both settings. -/
theorem test_dsPush_corners :
    pushed (scanning .plain [(0, 1), (1, 2), (2, 3)] 3 0 true 0x00) =
      some ⟨[(0, 1), (1, 2), (2, 3)], 0, 0, false, 0, false, []⟩ ∧
    pushed (scanning .plain [] 256 1 true 0x00) = some ⟨[], 256, 1, true, 4, false, []⟩ ∧
    pushed (scanning .plain [] 256 0 true 0x05) = some ⟨[], 256, 0, true, 4, false, []⟩ ∧
    pushed (scanning .plain [] 0 0 false 0xFF) = some ⟨[], 0, 254, true, 0, false, []⟩ ∧
    pushed (scanning .classic [] 0 0 false 0xFF) = some ⟨[], 0, 254, false, 0, false, []⟩ := by decide
theorem test_dsStat :
    answered .dsStat (scanning .plain [] 2 2 true 0) = some 0x01020002#32 ∧
    answered .dsStat (scanning .plain [] 256 1 true 0) = some 0x01010100#32 := by decide

/-! ### The assembler: the lines of 95_test_vectors.md P1, P2 and P3 -/

/-- The commands of a line, where it is accepted. -/
def assembled (line : String) : Option (List Command) :=
  match assembleLine line.toList with
  | .ok cs => some cs
  | .error _ => none

/-- Why a line is refused. -/
def refused (line : String) : Option AsmError :=
  match assembleLine line.toList with
  | .ok _ => none
  | .error e => some e

theorem test_assemble_entry :
    assembled "ENT_WR_TYPE 'a'" = some [{ cmd := 0x31, a := 0x61, b := 0 }] ∧
    assembled "ENT_DEC v4, [0x45, 0x05] ; P2" = some [{ cmd := 0x2434, a := 0, b := 0x0545 }] := by decide
/-- The model's choice of log 13. -/
theorem test_assemble_semicolon_character :
    assembled "ENT_WR_TYPE ';' ; a comment" = some [{ cmd := 0x31, a := 0x3B, b := 0 }] := by decide
theorem test_assemble_immediate :
    assembled "SV_WR_U16 #300" = some [{ cmd := 0x12, a := 0x12C, b := 0 }] ∧
    assembled "SV_WR_I32 #-1" = some [{ cmd := 0x15, a := 0xFFFFFFFF, b := 0 }] := by decide
theorem test_assemble_feed :
    assembled "DS_FEED 04, 80, 00" = some
      [{ cmd := 0x41, a := 0x04, b := 0 }, { cmd := 0x41, a := 0x80, b := 0 }, { cmd := 0x41, a := 0, b := 0 }] := by
  decide
theorem test_assemble_refuses :
    refused "NOP #1" = some .operandNotAllowed ∧ refused "DS_PUSH #256" = some .byteOutOfRange ∧
    refused "SV_WR_U32 #4294967296" = some .immediateOutOfRange ∧
    refused "ENT_DEC v4, [0, 1, 2, 3, 4, 5]" = some .tooManyBytes := by decide

/-! ### Witnesses: for each statement with hypotheses, a case that meets them, each clause at a boundary -/

/-- DS_PUSH issued with the byte `b`, on a scan state. -/
def pushIssued (m : Memory) (wc : BitVec 9) (rest : BitVec 8) (zf : Bool) (b : Byte) : State :=
  { scanning .plain m wc rest zf b with pending := [{ cmd := 0x41, a := b.setWidth 32, b := 0 }] }

/-- Four written bytes and the delimiter to come. -/
def frameDue : State := pushIssued [(0, 1), (1, 2), (2, 3), (3, 4)] 4 0 true 0

/-- An entry of the largest value, on the window. -/
def fullWindow : State := withB 0xFFFFFFFFFF#40

theorem witness_DecodeOfEncodeIsTheCommand :
    (Instr.entDec 7 7).WellFormed ∧ (Instr.entDec 0 0).WellFormed ∧ Instr.dsStat.WellFormed := by decide
theorem witness_DecodedWordsAreEncodings :
    decode 0x00007734#32 = .ok (.entDec 7 7) ∧ decode 0x00000042#32 = .ok .dsStat := by decide
/-- Each clause of `IllegalWord` at its edges, and legal words beside them. -/
theorem witness_IllegalWordsRaiseIllegalCommand :
    (∀ w ∈ [0x00000834#32, 0x00008034#32, 0x80000000#32, 0x00000120#32, 0x00001020#32, 0x00000004#32,
      0x0000000F#32, 0x00000021#32, 0x00000027#32, 0x0000002A#32, 0x0000002F#32, 0x00000035#32,
      0x0000003F#32, 0x00000043#32, 0x000000FF#32], IllegalWord w) ∧
    (∀ w ∈ [0x00000003#32, 0x00000010#32, 0x00000020#32, 0x00000028#32, 0x00000029#32, 0x00000030#32,
      0x00007734#32, 0x00000040#32, 0x00000042#32], ¬ IllegalWord w) ∧
    (issued 0x00000004#32).pending = [{ cmd := 0x00000004#32, a := 0, b := 0 }] := by
  refine ⟨?_, ?_, rfl⟩ <;> (simp only [IllegalWord, UnassignedOpcode]; simp)
theorem witness_StepRunsTheDecodedCommand :
    (issued 0x00007734#32).pending = [{ cmd := 0x00007734#32, a := 0, b := 0 }] ∧
    decode 0x00007734#32 = .ok (.entDec 7 7) := by decide
theorem witness_StepWaitsForACommand : State.reset.pending = [] := rfl
theorem witness_ResponseDependsOnStateAndSampledPorts :
    (nextState (step (issued 0x00000032#32))).map State.resp = some (some { r := 0x40 }) ∧
    (nextState (step frameDue)).map State.operands = some none ∧
    (nextState (step { frameDue with pending := [], resp := some { fv := true } })).map State.resp = some none := by
  decide
theorem witness_FaultsArePrecise :
    ∃ t, step (issued 0x00000004#32) = .next t ∧ t.response.rst ≠ 0 := ⟨_, rfl, by decide⟩
theorem witness_FirstFaultIsKept :
    (∃ t, step (issued 0x00000004#32) = .next t ∧ t.response.rst ≠ 0) ∧
    (issued 0x00000004#32).status.fpend = false ∧
    ∃ t, step { issued 0x00000004#32 with status := { fcode := 2, fpend := true, fopc := 0x34 } } = .next t ∧
      t.response.rst ≠ 0 := ⟨⟨_, rfl, by decide⟩, rfl, _, rfl, by decide⟩
/-- Each code of R250 is met, and the priority of R255 with it. -/
theorem witness_FaultCodesHaveTheirCauses :
    stepFault (issued 0x00000534#32) = some (2, 0x00003412#32) ∧
    stepFault (issued 0x00000434#32) = some (3, 0x00003413#32) ∧
    stepFault (pushIssued [] 256 1 false 0) = some (4, 0x00004114#32) ∧
    stepFault (issued 0x00000D34#32) = some (1, 0x00003411#32) := by decide
theorem witness_OtherCommandsNeverFault :
    (∀ ver avail, Instr.nop ≠ .entDec ver avail) ∧ Instr.nop ≠ .dsPush := ⟨by simp, by decide⟩
theorem witness_MixedWidthAccessesOverlap :
    Instr.svWrI8 ∈ [Instr.svWrU8, .svWrI8] ∧ Instr.svWrI16 ∈ [Instr.svWrU16, .svWrI16] := by decide
/-- A half of each branch of H2F; the normal one at both ends of its range. -/
theorem witness_HalfToSingleBranches :
    (halfExp 0x8000#16 = 0 ∧ halfFrac 0x8000#16 = 0) ∧ (halfExp 0x83FF#16 = 0 ∧ halfFrac 0x83FF#16 ≠ 0) ∧
    (halfExp 0xFC00#16 = 0x1F#5 ∧ halfFrac 0xFC00#16 = 0) ∧
    (halfExp 0x7C01#16 = 0x1F#5 ∧ halfFrac 0x7C01#16 ≠ 0) ∧
    (halfExp 0x0400#16).toNat = 1 ∧ (halfExp 0x7BFF#16).toNat = 30 := by decide
/-- A binary32 exponent at each end of each range of the statement. -/
theorem witness_SingleToHalfFields :
    [0x007FFFFF#32, 0x00800000#32, 0x38000000#32, 0x38800000#32, 0x47000000#32, 0x47800000#32, 0x7F7FFFFF#32,
      0x7F800000#32].map (fun x => (singleExp x).toNat) = [0, 1, 112, 113, 142, 143, 254, 255] := by decide
theorem witness_HalfToSinglePreservesClass :
    halfExp 0x0400#16 ≠ 0 ∧ halfExp 0x0400#16 ≠ 0x1F#5 ∧ h2f 0x0000#16 = h2f 0x8000#16 := by decide
theorem witness_HalfToSingleAndBack :
    (0x8001#16 : Half) ≠ 0x8000#16 ∧ halfExp 0x8001#16 = 0 ∧ halfExp 0xFFFF#16 = 0x1F#5 ∧
    halfExp 0x0400#16 ≠ 0 ∧ halfExp 0x0400#16 ≠ 0x1F#5 := by decide
theorem witness_SingleToHalfAndBack :
    [0x38800000#32, 0x47002000#32, 0x7F802000#32, 0x00002000#32].map
      (fun x => ((singleExp x).toNat, x.extractLsb' 0 13, decide (x.extractLsb' 13 10 = 0))) =
    [(113, 0, true), (142, 0, false), (255, 0, false), (0, 0, false)] := by decide
theorem witness_SingleToHalfTruncates :
    (0x3F801FFF#32 : Word).extractLsb' 13 19 = (0x3F800000#32 : Word).extractLsb' 13 19 := by decide
theorem witness_EntryDecodeVersions1To3 :
    (fullWindow.portB.extractLsb' 0 8).getLsbD 7 = true ∧ ((withB 0).portB.extractLsb' 0 8).getLsbD 7 = false ∧
    1 ≤ 1 ∧ 3 ≤ 3 := by decide
theorem witness_EntryDecodeVersion4 :
    [0x3F#40, 0x7F#40, 0xBF#40, 0xFF#40].map (fun b => ((withB b).portB.extractLsb' 0 8).extractLsb' 6 2) =
      [0b00#2, 0b01#2, 0b10#2, 0b11#2] := by decide
/-- The clauses at their edges: versions 0 and 5, no byte, and one byte too few for each width. -/
theorem witness_EntryDecodeFaults :
    [decoded 0 7 0, decoded 5 7 0, decoded 1 0 0, decoded 3 4 0x7F#40, decoded 4 1 0x40#40,
      decoded 4 2 0x80#40, decoded 4 4 0xC0#40].map (Option.map EntrySeen.rst) =
    [some 2, some 2, some 3, some 3, some 3, some 3, some 3] := by decide
/-- The bytes of an encoded entry stand on the window, under either mask. -/
theorem witness_EntryRoundTrip :
    encoded .ff 0x7F 0xFFFFFFFF#32 = some (fullWindow.portB, 5) ∧
    encoded .fe 0x61 1 = some ((withB 0x21#40).portB, 1) := by decide
theorem witness_TypeCodeThroughTheTag :
    64 ≤ (0x40#7).toNat ∧ 64 ≤ (0x7F#7).toNat ∧ (0x3F#7).toNat < 64 := by decide
theorem witness_DelimiterEndsTheFrame :
    [3, 4, 256].map (fun n => scanning .plain [] n 0 true 0x00) |>.all
      (fun s => s.dsRest == 0 && s.portA.extractLsb' 0 8 == 0 && decide (s.dsWc.toNat ≤ 256)) := by decide
theorem witness_LengthByteStartsABlock :
    let s := scanning .classic [] 255 0 true 0xFF
    s.dsRest = 0 ∧ s.portA.extractLsb' 0 8 ≠ 0 ∧ s.dsZf = true ∧ s.dsWc.toNat < 256 ∧
    (scanning .plain [] 256 0 false 0x01).dsZf = false := by decide
theorem witness_DataByteIsCopied :
    let s := scanning .plain [] 255 1 true 0x00
    s.dsRest ≠ 0 ∧ s.dsWc.toNat < 256 := by decide
theorem witness_OverflowIsPrecise :
    (scanning .plain [] 256 1 false 0x00).dsWc = 256#9 ∧ (scanning .plain [] 256 1 false 0x00).dsRest ≠ 0 ∧
    (let s := scanning .plain [] 256 0 true 0x05
     s.dsRest = 0 ∧ s.portA.extractLsb' 0 8 ≠ 0 ∧ s.dsZf = true) ∧
    (scanning .plain [] 256 0 true 0x00).portA.extractLsb' 0 8 = 0 := by decide
theorem witness_FramesOnlyAtDelimiters :
    (∃ t, step frameDue = .next t ∧ t.response.fv = true) ∧
    ∃ t, step (pushIssued [] 3 0 true 0) = .next t ∧ t.response.fv = false := ⟨⟨_, rfl, rfl⟩, _, rfl, rfl⟩
theorem frameDue_inv : frameDue.Inv :=
  ⟨by decide, by decide, by decide, by decide, by decide, by decide, by decide⟩
theorem witness_DeliveredFramesAreWritten :
    frameDue.Inv ∧ ∃ t, step frameDue = .next t ∧ t.response.fv = true :=
  ⟨frameDue_inv, _, rfl, rfl⟩
/-- The 256 bytes of 95_test_vectors.md 2.5: a block of 254 bytes, a zero, a byte. -/
theorem witness_PlainFrameDecoding :
    State.reset.params.cobsFF = .plain ∧ State.reset.dsWc = 0 ∧ State.reset.dsRest = 0 ∧
    State.reset.dsZf = false ∧ (∀ d ∈ [List.replicate 254 0x11#8, [0x22#8]], d.length ≤ 254) ∧
    (List.intercalate [0x00#8] [List.replicate 254 0x11#8, [0x22#8]]).length = 256 :=
  ⟨rfl, rfl, rfl, rfl, by simp [-List.reduceReplicate], by simp [List.intercalate, -List.reduceReplicate]⟩
/-- The same stream under CLASSIC: 255 bytes. -/
theorem witness_StuffedFrameDecoding :
    (∀ d ∈ [List.replicate 254 0x11#8, [0x22#8]], d.length ≤ 254) ∧
    (joinBlocks .classic [List.replicate 254 0x11#8, [0x22#8]]).length = 255 := 
  ⟨by simp [-List.reduceReplicate], by simp [joinBlocks, blockGap, -List.reduceReplicate]⟩
theorem witness_ReadsAndIdempotentWrites :
    Instr.dsStat ∈ [Instr.svRdU8, .svRdI8, .svRdU16, .svRdI16, .svRdU32, .svRdI32, .svRdF32, .svRdF16,
      .svRdSize, .entRdType, .entEnc, .statRd, .dsStat] ∧
    Instr.statClr ∈ [Instr.svWrU8, .svWrI8, .svWrU16, .svWrI16, .svWrU32, .svWrI32, .svWrF32, .svWrF16,
      .entWrType, .entClr, .dsRst, .statClr] := by decide
theorem witness_Float16ViewReadAndSizeRead : State.reset.Inv :=
  ⟨by decide, by decide, by decide, by decide, by decide, by decide, by decide⟩
theorem witness_WritersOfTheEntry :
    (∃ t, exec .entWrType (withA 0xE1) = .next t) ∧
    Instr.entWrType ∉ [Instr.svWrU8, .svWrI8, .svWrU16, .svWrI16, .svWrU32, .svWrI32, .svWrF32, .svWrF16,
      .entClr, .sysRst] ∧
    (∃ t, exec .svWrU8 (beef 1) = .next t) ∧ Instr.svWrU8 ∉ [Instr.entWrType, .entClr, .sysRst] ∧
    (∀ ver avail, Instr.svWrU8 ≠ .entDec ver avail) ∧ ∀ ver avail, Instr.entWrType ≠ .entDec ver avail :=
  ⟨⟨_, rfl⟩, by decide, ⟨_, rfl⟩, by decide, by simp, by simp⟩
theorem witness_WritersOfTheScanState :
    (∃ t, exec .dsStat frameDue = .next t) ∧ Instr.dsStat ∉ [Instr.dsPush, .dsRst, .sysRst] :=
  ⟨⟨_, rfl⟩, by decide⟩
theorem witness_WritersOfTheScratchArray :
    (∃ t, exec .dsPush (scanning .plain [] 0 3 true 0x80) = .next t) ∧
    (1 : Nat) ≠ putIndex (scanning .plain [] 0 3 true 0x80) ∧
    (∃ t, exec .dsPush frameDue = .next t) ∧ ¬ wouldPut frameDue ∧
    Instr.dsRst ≠ .dsPush ∧ Instr.dsRst ≠ .sysRst := by
  refine ⟨⟨_, rfl⟩, by decide, ⟨_, rfl⟩, ?_, by decide, by decide⟩
  unfold wouldPut
  decide
theorem witness_WritersOfStatus :
    ∃ t, exec .statRd (withA 0) = .next t ∧ t.response.rst = 0 := ⟨_, rfl, rfl⟩
theorem witness_ParametersAndFaultRecord :
    (∃ t, step frameDue = .next t ∧ t.response.rst = 0) ∧ ∃ t, step (issued 0x00000004#32) = .next t ∧ t.response.rst ≠ 0 :=
  ⟨⟨_, rfl, rfl⟩, _, rfl, by decide⟩
theorem witness_StepGoesOnAndKeepsTheInvariant : frameDue.Inv := frameDue_inv
theorem witness_AssembledEntryDecode : 7 < 8 ∧ [0x45#8, 1, 2, 3, 0xFF#8].length ≤ 5 := by decide
theorem witness_PseudoInstructionExpansions : [0x00#8, 0xFF#8] ≠ [] := by decide

end Sys2Proof.Tests
end

section
/-! What a command and a step can do to the parameters, the issued commands and the fault record: they
complete with `RST = 0` and keep all three, or they take one fault by `raise` with the word's own `OPC`. -/

namespace Sys2Proof.Machine

/-! ### The opcode of a decoded word -/

/-- Every row of the opcode map gives a command its own opcode (R74). -/
theorem opcodeTable_rows : ∀ row ∈ opcodeTable, opcodeOf row.2 = row.1 := by decide

theorem opcodeOf_of_plainCommand {opc : Byte} {i : Instr} (h : plainCommand opc = some i) : opcodeOf i = opc := by
  obtain ⟨row, hfind, rfl⟩ := Option.map_eq_some_iff.1 h
  have hopc : row.1 = opc := by simpa using List.find?_some hfind
  exact (opcodeTable_rows row (List.mem_of_find?_eq_some hfind)).trans hopc

/-- A command's opcode is the `OPC` field of the word it was decoded from (R74). -/
theorem opcodeOf_of_decode {w : Word} {i : Instr} (h : decode w = .ok i) : opcodeOf i = opcField w := by
  unfold decode at h
  split at h
  · cases h
  · split at h
    next hopc =>
      cases h
      exact hopc.symm
    next =>
      split at h
      next => cases h
      next hplain =>
        split at h
        · cases h
          exact opcodeOf_of_plainCommand hplain
        · cases h

/-! ### Completing or faulting -/

theorem faultCode_ne_zero (code : FaultCode) : faultCode code ≠ 0 := by cases code <;> decide

/-- From `s` to `t` a command completed: no fault is reported, and the parameters (R3), the issued
commands and the fault record (D7) stand as they did. -/
structure Completes (s t : State) : Prop where
  rst : t.response.rst = 0
  params : t.params = s.params
  pending : t.pending = s.pending
  faultLog : t.faultLog = s.faultLog

/-- R251: every command but ENT_DEC and DS_PUSH completes, in every state. -/
theorem exec_completes (i : Instr) (s : State) (hdec : ∀ ver avail, i ≠ .entDec ver avail) (hpush : i ≠ .dsPush) :
    ∃ t, exec i s = .next t ∧ Completes s t := by
  cases i with
  | entDec ver avail => exact absurd rfl (hdec ver avail)
  | dsPush => exact absurd rfl hpush
  | _ => exact ⟨_, rfl, rfl, rfl, rfl, rfl⟩

/-- ENT_DEC loads the entry or takes a fault under its own opcode (R181). -/
theorem execEntDec_completes_or_raises {ver avail : Nat} {s t : State} (h : execEntDec ver avail s = .next t) :
    Completes s t ∨ ∃ code, t = raise code (opcodeOf (.entDec ver avail)) s := by
  rcases execEntDec_cases ver avail s with ⟨code, -, hraise⟩ | ⟨ty, w, -, hload⟩
  · obtain rfl := Host.Outcome.next.inj (h.symm.trans hraise)
    exact .inr ⟨code, rfl⟩
  · obtain rfl := Host.Outcome.next.inj (h.symm.trans hload)
    exact .inl ⟨rfl, rfl, rfl, rfl⟩

theorem delimiterResponse_rst (s : State) : (delimiterResponse s).rst = 0 := by
  unfold delimiterResponse
  split <;> rfl

/-- DS_PUSH handles its byte or takes `FrameOverflow` under its own opcode (R204, R205). -/
theorem execDsPush_completes_or_raises {s t : State} (h : execDsPush s = .next t) :
    Completes s t ∨ ∃ code, t = raise code (opcodeOf .dsPush) s := by
  rcases execDsPush_cases h with ⟨-, -, -, rfl⟩ | ⟨-, -, -, rfl⟩ | ⟨-, -, -, -, rfl⟩ | ⟨-, -, rfl⟩ | ⟨-, -, rfl⟩
  · exact .inl ⟨delimiterResponse_rst s, rfl, rfl, rfl⟩
  · exact .inl ⟨rfl, rfl, rfl, rfl⟩
  · exact .inl ⟨rfl, rfl, rfl, rfl⟩
  · exact .inl ⟨rfl, rfl, rfl, rfl⟩
  · exact .inr ⟨.frameOverflow, rfl⟩

/-- Everything a command can do to the fault record when it goes on: leave it, or take one fault under
the command's own opcode. -/
theorem exec_completes_or_raises {i : Instr} {s t : State} (h : exec i s = .next t) :
    Completes s t ∨ ∃ code, t = raise code (opcodeOf i) s := by
  by_cases hdec : ∃ ver avail, i = .entDec ver avail
  · obtain ⟨ver, avail, rfl⟩ := hdec
    exact execEntDec_completes_or_raises h
  · by_cases hpush : i = .dsPush
    · subst hpush
      exact execDsPush_completes_or_raises h
    · obtain ⟨u, hu, hcompletes⟩ := exec_completes i s (fun ver avail hi => hdec ⟨ver, avail, hi⟩) hpush
      obtain rfl := Host.Outcome.next.inj (h.symm.trans hu)
      exact .inl hcompletes

/-- With no command issued the block waits (R58, R260). -/
theorem step_of_pending_nil {s : State} (hp : s.pending = []) : step s = .next (idle s) := by
  simp only [step, hp]

/-- A step that takes the command `c` completes it, or takes one fault recorded under the `OPC` of its
word, be it the word or the command that faults (R71, R253). -/
theorem step_completes_or_raises {s t : State} {c : Command} {rest : List Command} (hp : s.pending = c :: rest)
    (h : step s = .next t) :
    Completes (sample c rest s) t ∨
      ∃ code, t = releaseOperands (raise code (opcField c.cmd) (sample c rest s)) := by
  rcases step_cases h with ⟨hnone, -⟩ | ⟨c', rest', i, u, hp', hi, hu, rfl⟩ | ⟨c', rest', e, hp', -, rfl⟩
  · simp [hp] at hnone
  · obtain ⟨rfl, rfl⟩ := List.cons.inj (hp.symm.trans hp')
    rcases exec_completes_or_raises hu with ⟨hrst, hparams, hpending, hlog⟩ | ⟨code, rfl⟩
    · exact .inl ⟨hrst, hparams, hpending, hlog⟩
    · exact .inr ⟨code, by rw [opcodeOf_of_decode hi]⟩
  · obtain ⟨rfl, rfl⟩ := List.cons.inj (hp.symm.trans hp')
    exact .inr ⟨.illegalCommand, rfl⟩

/-- Settles O56: it holds, as a step waits, completes its command, or takes one fault by `raise`. -/
theorem parametersAndFaultRecord : Obligations.ParametersAndFaultRecord := by
  intro s t h
  cases hp : s.pending with
  | nil =>
    obtain rfl := Host.Outcome.next.inj (h.symm.trans (step_of_pending_nil hp))
    exact ⟨rfl, hp, fun _ => rfl, fun _ _ hcons => nomatch hcons⟩
  | cons c rest =>
    rcases step_completes_or_raises hp h with ⟨hrst, hparams, hpending, hlog⟩ | ⟨code, rfl⟩
    · exact ⟨hparams, hpending, fun _ => hlog, fun _ _ _ hne => absurd hrst hne⟩
    · refine ⟨rfl, rfl, fun hrst => absurd hrst (faultCode_ne_zero code), ?_⟩
      rintro c' rest' hcons -
      obtain ⟨rfl, rfl⟩ := List.cons.inj hcons
      exact ⟨code, rfl, rfl⟩

end Sys2Proof.Machine
end

section
/-! The state elements across a command and a step: what each command can do to them, said once as
`Effect`; from it the writers of each element, the invariant, and what a response depends on. -/

namespace Sys2Proof.Machine

/-! ### What a command can do -/

/-- The typed writes of the Scalar View (R101 to R108). -/
def scalarWrites : List Instr :=
  [.svWrU8, .svWrI8, .svWrU16, .svWrI16, .svWrU32, .svWrI32, .svWrF32, .svWrF16]

/-- Everything the command `i` can make of the state `s` when it goes on. -/
inductive Effect (s : State) : Instr → State → Prop where
  /-- It answers and changes no state element. -/
  | respond {i : Instr} (r : Response) (hrst : r.rst = 0) : Effect s i { s with resp := some r }
  /-- A typed write stores the bytes of its width and zeroes the others (R100, R105). -/
  | write {i : Instr} (w : Width) (v : Word) (hi : i ∈ scalarWrites) : Effect s i
      { s with
        svBuf := svWrite (widthBytes w) v 0#32
        svSize := BitVec.ofNat 3 (widthBytes w)
        resp := some {} }
  /-- ENT_DEC loads the entry whole (R180). -/
  | load {ver avail : Nat} (ty : BitVec 7) (w : Width) : Effect s (.entDec ver avail)
      { loadEntry ty w s with resp := some { rlen := BitVec.ofNat 3 (1 + widthBytes w) } }
  /-- ENT_DEC takes a fault (R176, R179). -/
  | fault {ver avail : Nat} (code : FaultCode) : Effect s (.entDec ver avail) (raise code 0x34#8 s)
  /-- ENT_CLR (R170). -/
  | clearEntry : Effect s .entClr { s with entType := 0x40#7, svBuf := 0#32, svSize := 0#3, resp := some {} }
  /-- ENT_WR_TYPE (R171). -/
  | writeType : Effect s .entWrType { s with entType := operandChar s, resp := some {} }
  /-- DS_RST (R200). -/
  | restartScan : Effect s .dsRst { s with dsWc := 0, dsRest := 0, dsZf := false, resp := some {} }
  /-- DS_PUSH, whose own cases are those of `execDsPush_cases`. -/
  | push {t : State} (h : execDsPush s = .next t) : Effect s .dsPush t
  /-- STAT_CLR (R233). -/
  | clearStatus : Effect s .statClr { clearStatus s with resp := some {} }
  /-- SYS_RST (R231). -/
  | resetAll : Effect s .sysRst { resetElements s with resp := some {} }

/-- Every typed write leaves the bytes of its width over a zero buffer: a 32-bit write covers all four. -/
theorem writeScalar_eq (w : Width) (hw : w ≠ .w0) (v : Word) (s : State) :
    writeScalar (widthBytes w) (BitVec.ofNat 3 (widthBytes w)) v s =
      .next { s with
        svBuf := svWrite (widthBytes w) v 0#32
        svSize := BitVec.ofNat 3 (widthBytes w)
        resp := some {} } := by
  cases w with
  | w0 => exact absurd rfl hw
  | w1 | w2 => rfl
  | w4 => simp [writeScalar, complete, widthBytes, svWrite_four]

theorem effect_of_writeScalar {i : Instr} {v : Word} {s t : State} (w : Width) (hw : w ≠ .w0)
    (hi : i ∈ scalarWrites)
    (h : writeScalar (widthBytes w) (BitVec.ofNat 3 (widthBytes w)) v s = .next t) : Effect s i t := by
  obtain rfl := Host.Outcome.next.inj ((writeScalar_eq w hw v s).symm.trans h)
  exact .write w v hi

theorem effect_of_execEntDec {ver avail : Nat} {s t : State} (h : execEntDec ver avail s = .next t) :
    Effect s (.entDec ver avail) t := by
  rcases execEntDec_cases ver avail s with ⟨code, -, hraise⟩ | ⟨ty, w, -, hload⟩
  · obtain rfl := Host.Outcome.next.inj (hraise.symm.trans h)
    exact .fault code
  · obtain rfl := Host.Outcome.next.inj (hload.symm.trans h)
    exact .load ty w

/-- A command that goes on has one of the effects listed. -/
theorem effect_of_exec {i : Instr} {s t : State} (h : exec i s = .next t) : Effect s i t := by
  cases i with
  | svWrU8 | svWrI8 => exact effect_of_writeScalar .w1 (by decide) (by decide) h
  | svWrU16 | svWrI16 | svWrF16 => exact effect_of_writeScalar .w2 (by decide) (by decide) h
  | svWrU32 | svWrI32 | svWrF32 => exact effect_of_writeScalar .w4 (by decide) (by decide) h
  | entDec ver avail => exact effect_of_execEntDec h
  | entClr => exact Host.Outcome.next.inj h ▸ .clearEntry
  | entWrType => exact Host.Outcome.next.inj h ▸ .writeType
  | dsRst => exact Host.Outcome.next.inj h ▸ .restartScan
  | dsPush => exact .push h
  | statClr => exact Host.Outcome.next.inj h ▸ .clearStatus
  | sysRst => exact Host.Outcome.next.inj h ▸ .resetAll
  | _ => exact Host.Outcome.next.inj h ▸ .respond _ rfl

/-! ### The writers of each state element -/

/-- DS_PUSH changes only the destuffer's elements and, by a fault, `STATUS` (R204). -/
theorem execDsPush_keeps_entry {s t : State} (h : execDsPush s = .next t) :
    t.svBuf = s.svBuf ∧ t.svSize = s.svSize ∧ t.entType = s.entType := by
  rcases execDsPush_cases h with ⟨-, -, -, rfl⟩ | ⟨-, -, -, rfl⟩ | ⟨-, -, -, -, rfl⟩ | ⟨-, -, rfl⟩ | ⟨-, -, rfl⟩ <;>
    exact ⟨rfl, rfl, rfl⟩

/-- Settles O52: it holds, since of the effects only a typed write, a load, ENT_CLR and SYS_RST name
`SV_BUF` and `SV_SIZE`, and only the last three and ENT_WR_TYPE name `ENT_TYPE`. -/
theorem writersOfTheEntry : Obligations.WritersOfTheEntry := by
  intro i s t h
  cases effect_of_exec h with
  | write w v hi =>
    exact ⟨fun hnot _ => (hnot (List.mem_append_left [Instr.entClr, Instr.sysRst] hi)).elim, fun _ _ => rfl⟩
  | load | fault => exact ⟨fun _ hdec => absurd rfl (hdec _ _), fun _ hdec => absurd rfl (hdec _ _)⟩
  | clearEntry | resetAll => exact ⟨fun hnot => absurd (by decide) hnot, fun hnot => absurd (by decide) hnot⟩
  | writeType => exact ⟨fun _ _ => ⟨rfl, rfl⟩, fun hnot => absurd (by decide) hnot⟩
  | push hpush =>
    obtain ⟨hbuf, hsize, htype⟩ := execDsPush_keeps_entry hpush
    exact ⟨fun _ _ => ⟨hbuf, hsize⟩, fun _ _ => htype⟩
  | respond | restartScan | clearStatus => exact ⟨fun _ _ => ⟨rfl, rfl⟩, fun _ _ => rfl⟩

/-- Settles O53: it holds, since no other command's effect names the scan state. -/
theorem writersOfTheScanState : Obligations.WritersOfTheScanState := by
  intro i s t h hnot
  cases effect_of_exec h with
  | push | restartScan | resetAll => exact absurd (by decide) hnot
  | _ => exact ⟨rfl, rfl, rfl⟩

/-- Outside DS_PUSH and SYS_RST no effect names `DSO` (R24, R231). -/
theorem exec_keeps_dso {i : Instr} {s t : State} (h : exec i s = .next t) (hpush : i ≠ .dsPush)
    (hreset : i ≠ .sysRst) : SameDso s t := by
  cases effect_of_exec h with
  | push => exact absurd rfl hpush
  | resetAll => exact absurd rfl hreset
  | _ => exact fun _ => rfl

/-- DS_PUSH leaves every byte of `DSO` but that at `DS_WC` (R24). -/
theorem execDsPush_keeps_other_bytes {s t : State} (h : execDsPush s = .next t) {a : Nat} (ha : a ≠ putIndex s) :
    dsoByte t a = dsoByte s a := by
  rcases execDsPush_cases h with ⟨-, -, -, rfl⟩ | ⟨-, -, -, rfl⟩ | ⟨-, -, -, -, rfl⟩ | ⟨-, -, rfl⟩ | ⟨-, -, rfl⟩
  · rfl
  · rfl
  · exact dsoByte_storeByte_other 0x00#8 s a ha
  · exact dsoByte_storeByte_other (operandByte s) s a ha
  · rfl

/-- DS_PUSH leaves `DSO` whole where no byte rule puts (R201, R202). -/
theorem execDsPush_keeps_dso_without_put {s t : State} (h : execDsPush s = .next t) (hno : ¬ wouldPut s) :
    SameDso s t := by
  rcases execDsPush_cases h with
    ⟨-, -, -, rfl⟩ | ⟨-, -, -, rfl⟩ | ⟨-, hbyte, hzf, -, -⟩ | ⟨hrest, -, -⟩ | ⟨hput, -, -⟩
  · exact fun _ => rfl
  · exact fun _ => rfl
  · exact absurd (.inr ⟨hbyte, hzf⟩) hno
  · exact absurd (.inl hrest) hno
  · exact absurd hput hno

/-- Settles O54: it holds, by the three facts above. -/
theorem writersOfTheScratchArray : Obligations.WritersOfTheScratchArray :=
  ⟨fun _ _ _ h => exec_keeps_dso h, fun _ _ h _ => execDsPush_keeps_other_bytes h,
    fun _ _ h => execDsPush_keeps_dso_without_put h⟩

/-- A DS_PUSH that reports no fault leaves `STATUS` and the fault record (R204, R257). -/
theorem execDsPush_keeps_status {s t : State} (h : execDsPush s = .next t) (hrst : t.response.rst = 0) :
    t.status = s.status ∧ t.faultLog = s.faultLog := by
  rcases execDsPush_cases h with ⟨-, -, -, rfl⟩ | ⟨-, -, -, rfl⟩ | ⟨-, -, -, -, rfl⟩ | ⟨-, -, rfl⟩ | ⟨-, -, rfl⟩
  · exact ⟨rfl, rfl⟩
  · exact ⟨rfl, rfl⟩
  · exact ⟨rfl, rfl⟩
  · exact ⟨rfl, rfl⟩
  · exact absurd hrst (faultCode_ne_zero .frameOverflow)

/-- Settles O55: it holds, since a command that takes a fault reports its code, which is not 0. -/
theorem writersOfStatus : Obligations.WritersOfStatus := by
  intro i s t h hrst hclr hreset
  cases effect_of_exec h with
  | fault code => exact absurd hrst (faultCode_ne_zero code)
  | push hpush => exact execDsPush_keeps_status hpush hrst
  | clearStatus => exact absurd rfl hclr
  | resetAll => exact absurd rfl hreset
  | _ => exact ⟨rfl, rfl⟩

/-! ### The invariant, by the elements it speaks of -/

/-- The size tag is legal and the bytes above it are zero (R21, R22). -/
structure EntryLegal (buf : Word) (size : BitVec 3) : Prop where
  sizeLegal : size = 0 ∨ size = 1 ∨ size = 2 ∨ size = 4
  deadBytesZero : ∀ k, k < 4 → size.toNat ≤ k → svByte buf k = 0

/-- The cursor and the countdown are in range, `DSO` is canonical, and every byte below the cursor is
written (R24, R25, R26). -/
structure ScanLegal (dso : Memory) (wc : BitVec 9) (rest : BitVec 8) : Prop where
  cursorLegal : wc.toNat ≤ dsoSize
  restLegal : rest.toNat ≤ 254
  canonical : dso.wf = true
  written : ∀ k, k < wc.toNat → (dso.read k).isSome = true

/-- `FCODE` is a code of R250 exactly when a fault is pending, and with none `STATUS` is 0 (R28, R253). -/
def StatusLegal (st : Status) : Prop :=
  st.fcode.toNat ≤ 4 ∧ (st.fpend = true ↔ st.fcode ≠ 0) ∧ (st.fpend = false → st = Status.zero)

theorem inv_iff {s : State} : s.Inv ↔
    EntryLegal s.svBuf s.svSize ∧ ScanLegal s.dso s.dsWc s.dsRest ∧ StatusLegal s.status := by
  constructor
  · rintro ⟨hsize, hdead, hcursor, hrest, hdso, hwritten, hstatus⟩
    exact ⟨⟨hsize, hdead⟩, ⟨hcursor, hrest, hdso, hwritten⟩, hstatus⟩
  · rintro ⟨⟨hsize, hdead⟩, ⟨hcursor, hrest, hdso, hwritten⟩, hstatus⟩
    exact ⟨hsize, hdead, hcursor, hrest, hdso, hwritten, hstatus⟩

theorem svByte_zero (k : Nat) : svByte 0#32 k = 0 := by
  simp [svByte]

/-- Setting a byte leaves the bytes above it. -/
theorem svByte_svSetByte_above (buf : Word) (v : Byte) {n k : Nat} (hk : n < k) :
    svByte (svSetByte buf n v) k = svByte buf k := by
  ext i hi
  have hge : 8 ≤ 8 * k + i - 8 * n := by omega
  have hv : v.getLsbD (8 * k + i - 8 * n) = false := BitVec.getLsbD_of_ge v _ hge
  have hmask : (0xFF#32).getLsbD (8 * k + i - 8 * n) = false := by
    rw [show 0xFF#32 = (0xFF#8).setWidth 32 from rfl, BitVec.getLsbD_setWidth, BitVec.getLsbD_of_ge _ _ hge,
      Bool.and_false]
  simpa [svByte, svSetByte, hv, hmask] using BitVec.lt_of_getLsbD

/-- A store over a zero buffer leaves zeros above its bytes. -/
theorem svByte_svWrite_above (n : Nat) (v : Word) {k : Nat} (hk : n ≤ k) :
    svByte (svWrite n v 0#32) k = 0 := by
  induction n with
  | zero => exact svByte_zero k
  | succ n ih => rw [svWrite, svByte_svSetByte_above _ _ hk, ih (by omega)]

theorem entryLegal_svWrite (w : Width) (v : Word) :
    EntryLegal (svWrite (widthBytes w) v 0#32) (BitVec.ofNat 3 (widthBytes w)) where
  sizeLegal := by cases w <;> decide
  deadBytesZero k _ hk := svByte_svWrite_above (widthBytes w) v (by cases w <;> exact hk)

theorem entryLegal_zero : EntryLegal 0#32 0#3 := entryLegal_svWrite .w0 0#32

/-- A fresh scan is legal whatever stands in `DSO`: no byte is below the cursor. -/
theorem scanLegal_fresh {dso : Memory} {rest : BitVec 8} (hdso : dso.wf = true) (hrest : rest.toNat ≤ 254) :
    ScanLegal dso 0#9 rest where
  cursorLegal := Nat.zero_le _
  restLegal := hrest
  canonical := hdso
  written _ hk := absurd hk (Nat.not_lt_zero _)

theorem ScanLegal.withRest {dso : Memory} {wc : BitVec 9} {rest : BitVec 8} (h : ScanLegal dso wc rest)
    {rest' : BitVec 8} (hrest : rest'.toNat ≤ 254) : ScanLegal dso wc rest' :=
  ⟨h.cursorLegal, hrest, h.canonical, h.written⟩

/-- A byte stored at a cursor within the array moves the cursor over a written byte (R203). -/
theorem ScanLegal.store {dso : Memory} {wc : BitVec 9} {rest : BitVec 8} (h : ScanLegal dso wc rest)
    (hroom : wc.toNat < dsoSize) (v : Byte) : ScanLegal (dso.write wc.toNat v) (wc + 1) rest := by
  have hnext : (wc + 1).toNat = wc.toNat + 1 := by
    unfold dsoSize at hroom
    bv_omega
  refine ⟨by omega, h.restLegal, memory_wf_write _ _ _ h.canonical hroom, fun k hk => ?_⟩
  by_cases hlast : k = wc.toNat
  · rw [hlast, memory_read_write_same]
    rfl
  · rw [memory_read_write_other _ _ _ _ hlast]
    exact h.written k (by omega)

theorem faultCode_le_four (code : FaultCode) : (faultCode code).toNat ≤ 4 := by cases code <;> decide

theorem statusLegal_zero : StatusLegal Status.zero := by
  unfold StatusLegal
  decide

/-- Taking a fault keeps `STATUS` legal: it keeps a pending fault and records a first one (R253). -/
theorem StatusLegal.recordFault {st : Status} (h : StatusLegal st) (code : FaultCode) (opc : Byte) :
    StatusLegal (recordFault code opc st) := by
  unfold Machine.recordFault
  split
  · exact h
  · exact ⟨faultCode_le_four code, iff_of_true rfl (faultCode_ne_zero code), nofun⟩

/-- Counting a non-zero byte down leaves at most 254 (R26, R202, R203). -/
theorem toNat_sub_one_le {b : Byte} (hb : b ≠ 0) : (b - 1).toNat ≤ 254 := by
  bv_omega

/-- Every way DS_PUSH goes on keeps the scan state and `STATUS` legal. -/
theorem execDsPush_keeps_legal {s t : State} (h : execDsPush s = .next t)
    (hscan : ScanLegal s.dso s.dsWc s.dsRest) (hstatus : StatusLegal s.status) :
    ScanLegal t.dso t.dsWc t.dsRest ∧ StatusLegal t.status := by
  rcases execDsPush_cases h with
    ⟨-, -, -, rfl⟩ | ⟨-, hbyte, -, rfl⟩ | ⟨-, hbyte, -, hroom, rfl⟩ | ⟨hrest, hroom, rfl⟩ | ⟨-, -, rfl⟩
  · exact ⟨scanLegal_fresh hscan.canonical hscan.restLegal, hstatus⟩
  · exact ⟨hscan.withRest (toNat_sub_one_le hbyte), hstatus⟩
  · exact ⟨(hscan.store hroom _).withRest (toNat_sub_one_le hbyte), hstatus⟩
  · exact ⟨(hscan.store hroom _).withRest (toNat_sub_one_le hrest), hstatus⟩
  · exact ⟨hscan, hstatus.recordFault _ _⟩

/-- Every effect of a command keeps the invariant. -/
theorem exec_keeps_inv {i : Instr} {s t : State} (h : exec i s = .next t) (hs : s.Inv) : t.Inv := by
  obtain ⟨hentry, hscan, hstatus⟩ := inv_iff.1 hs
  refine inv_iff.2 ?_
  cases effect_of_exec h with
  | write w v => exact ⟨entryLegal_svWrite w v, hscan, hstatus⟩
  | load ty w => exact ⟨entryLegal_svWrite w _, hscan, hstatus⟩
  | fault code => exact ⟨hentry, hscan, hstatus.recordFault code 0x34#8⟩
  | clearEntry => exact ⟨entryLegal_zero, hscan, hstatus⟩
  | restartScan => exact ⟨hentry, scanLegal_fresh hscan.canonical (Nat.zero_le _), hstatus⟩
  | push hpush =>
    obtain ⟨hbuf, hsize, -⟩ := execDsPush_keeps_entry hpush
    exact ⟨by rwa [hbuf, hsize], execDsPush_keeps_legal hpush hscan hstatus⟩
  | clearStatus => exact ⟨hentry, hscan, statusLegal_zero⟩
  | resetAll => exact ⟨entryLegal_zero, scanLegal_fresh rfl (Nat.zero_le _), statusLegal_zero⟩
  | respond | writeType => exact ⟨hentry, hscan, hstatus⟩

/-- Every command goes on while `DS_WC` is legal; only DS_PUSH can stop at all (R252, log 6). -/
theorem exec_goes_on (i : Instr) {s : State} (hcursor : s.dsWc.toNat ≤ dsoSize) : ∃ t, exec i s = .next t := by
  cases i with
  | dsPush => exact execDsPush_goes_on hcursor
  | entDec ver avail =>
    rcases execEntDec_cases ver avail s with ⟨_, -, hraise⟩ | ⟨_, _, -, hload⟩
    · exact ⟨_, hraise⟩
    · exact ⟨_, hload⟩
  | _ => exact ⟨_, rfl⟩

theorem step_goes_on {s : State} (hcursor : s.dsWc.toNat ≤ dsoSize) : ∃ t, step s = .next t := by
  cases hp : s.pending with
  | nil => exact ⟨_, step_of_pending_nil hp⟩
  | cons c rest =>
    cases hd : decode c.cmd with
    | error e => exact ⟨_, by simp only [step, hp, hd]; rfl⟩
    | ok i =>
      obtain ⟨t, ht⟩ := exec_goes_on i (s := sample c rest s) hcursor
      exact ⟨releaseOperands t, by simp only [step, hp, hd, ht]; rfl⟩

/-- Nor does taking a command or ending it break the invariant: it does not speak of the ports and the
issued commands. -/
theorem step_keeps_inv {s t : State} (h : step s = .next t) (hs : s.Inv) : t.Inv := by
  have hparts := inv_iff.1 hs
  rcases step_cases h with ⟨-, rfl⟩ | ⟨c, rest, i, u, -, -, hu, rfl⟩ | ⟨c, rest, e, -, -, rfl⟩
  · exact inv_iff.2 hparts
  · have hsampled : (sample c rest s).Inv := inv_iff.2 hparts
    have hran := inv_iff.1 (exec_keeps_inv hu hsampled)
    exact inv_iff.2 hran
  · obtain ⟨hentry, hscan, hstatus⟩ := hparts
    exact inv_iff.2 ⟨hentry, hscan, hstatus.recordFault _ _⟩

/-- Settles O58: it holds, as the invariant bounds the cursor, the one thing that could stop a step, and
every effect of a command keeps it. -/
theorem stepGoesOnAndKeepsTheInvariant : Obligations.StepGoesOnAndKeepsTheInvariant := by
  intro s hs
  obtain ⟨t, ht⟩ := step_goes_on hs.cursorLegal
  exact ⟨t, ht, step_keeps_inv ht hs⟩

/-- Settles O57: it holds, by the legality of the zero entry, a fresh scan and the zero `STATUS`. -/
theorem resetMeetsTheInvariant : Obligations.ResetMeetsTheInvariant :=
  inv_iff.2 ⟨entryLegal_zero, scanLegal_fresh memory_wf_reset (Nat.zero_le _), statusLegal_zero⟩

/-- Settles O49: it holds, by the fields of `State.reset`. -/
theorem resetValues : Obligations.ResetValues :=
  ⟨reset_svBuf, reset_svSize, reset_entType, reset_dsWc, reset_dsRest, reset_dsZf, by decide⟩

/-! ### What a response depends on (R32) -/

/-- A command that goes on leaves a response. -/
theorem exec_resp_ne_none {i : Instr} {s t : State} (h : exec i s = .next t) : t.resp ≠ none := by
  cases effect_of_exec h with
  | push hpush =>
    rcases execDsPush_cases hpush with
      ⟨-, -, -, rfl⟩ | ⟨-, -, -, rfl⟩ | ⟨-, -, -, -, rfl⟩ | ⟨-, -, rfl⟩ | ⟨-, -, rfl⟩ <;> exact Option.some_ne_none _
  | _ => exact Option.some_ne_none _

/-- A step releases its operands and leaves a response exactly where it took a command. -/
theorem step_ports {s t : State} (h : step s = .next t) :
    t.operands = none ∧ (t.resp = none ↔ s.pending = []) := by
  rcases step_cases h with ⟨hp, rfl⟩ | ⟨c, rest, i, u, hp, -, hu, rfl⟩ | ⟨c, rest, e, hp, -, rfl⟩
  · exact ⟨rfl, by simp [hp]⟩
  · exact ⟨rfl, by simp [hp, exec_resp_ne_none hu]⟩
  · exact ⟨rfl, by simp [hp]⟩

/-- What an outcome leaves on the response ports, if it goes on. -/
def answer (o : Host.Outcome State Fault Refusal) : Option (Option Response) := (nextState o).map State.resp

@[simp] theorem answer_endStep (o : Host.Outcome State Fault Refusal) : answer (endStep o) = answer o := by
  cases o <;> rfl

/-- The state with other contents in the fields a response does not depend on: the commands behind, the
response ports and the model's fault record. -/
def withUnread (p : List Command) (r : Option Response) (fl : List FaultRecord) (s : State) : State :=
  { s with pending := p, resp := r, faultLog := fl }

section WithUnread
variable (p : List Command) (r : Option Response) (fl : List FaultRecord) (s : State)

theorem answer_putThen_withUnread (v : Byte) (after : State → Host.Outcome State Fault Refusal)
    (hafter : ∀ t, answer (after (withUnread p r fl t)) = answer (after t)) :
    answer (putThen v (withUnread p r fl s) after) = answer (putThen v s after) := by
  have hindex : putIndex (withUnread p r fl s) = putIndex s := rfl
  unfold putThen
  rw [hindex]
  split
  · rfl
  · split
    · rfl
    · exact hafter (storeByte v s)

theorem answer_execDsPush_withUnread : answer (execDsPush (withUnread p r fl s)) = answer (execDsPush s) := by
  have hrest : (withUnread p r fl s).dsRest = s.dsRest := rfl
  have hbyte : operandByte (withUnread p r fl s) = operandByte s := rfl
  have hzf : (withUnread p r fl s).dsZf = s.dsZf := rfl
  have hwc : (withUnread p r fl s).dsWc = s.dsWc := rfl
  simp only [execDsPush, hrest, hbyte]
  split
  · simp only [pushDelimiter, hwc]
    split <;> rfl
  · split
    · simp only [pushLength, hzf]
      split
      · exact answer_putThen_withUnread p r fl s _ _ fun _ => rfl
      · rfl
    · exact answer_putThen_withUnread p r fl s _ _ fun _ => rfl

theorem answer_exec_withUnread (i : Instr) : answer (exec i (withUnread p r fl s)) = answer (exec i s) := by
  cases i with
  | dsPush => exact answer_execDsPush_withUnread p r fl s
  | entDec ver avail =>
    have hwindow : (withUnread p r fl s).portB = s.portB := rfl
    simp only [exec, execEntDec, hwindow]
    split <;> rfl
  | _ => rfl

end WithUnread

/-- What the command `c` answers on the state elements of `s`: its operands and `s` say all. -/
def commandAnswer (c : Command) (s : State) : Option (Option Response) :=
  match decode c.cmd with
  | .ok i => answer (exec i (sample c [] s))
  | .error _ => answer (illegalCommand c.cmd (sample c [] s))

/-- The step's answer is its command's, whatever the model's other fields hold. -/
theorem answer_step (s : State) (c : Command) (rest : List Command) (o : Option Operands) (r : Option Response)
    (fl : List FaultRecord) :
    answer (step { s with pending := c :: rest, operands := o, resp := r, faultLog := fl }) = commandAnswer c s := by
  unfold step commandAnswer
  rw [answer_endStep]
  cases decode c.cmd with
  | ok i => exact answer_exec_withUnread rest r fl (sample c [] s) i
  | error _ => rfl

/-- Settles O7: it holds, since either step answers what the command answers on the state elements. -/
theorem responseDependsOnStateAndSampledPorts : Obligations.ResponseDependsOnStateAndSampledPorts :=
  ⟨fun _ _ h => step_ports h, fun s c rest rest' o o' r r' fl fl' =>
    (answer_step s c rest o r fl).trans (answer_step s c rest' o' r' fl').symm⟩

end Sys2Proof.Machine
end

section
/-! The commands as accesses to the state (20_memory.md): the step that runs one, the overlap of the typed
accesses to `SV_BUF`, and which commands leave twice what they leave once. -/

namespace Sys2Proof.Machine

/-! ### The step of a decoded command -/

theorem step_of_decode {s : State} {c : Command} {rest : List Command} {i : Instr} (hp : s.pending = c :: rest)
    (hi : decode c.cmd = .ok i) : step s = endStep (exec i (sample c rest s)) := by
  simp only [step, hp, hi]

/-- Settles O5: it holds, as `sample` and `endStep` are what stands around `exec` in the step. -/
theorem stepRunsTheDecodedCommand : Obligations.StepRunsTheDecodedCommand := by
  intro s c rest i hp hi
  rw [step_of_decode hp hi, sample]
  cases exec i { s with pending := rest, operands := some { a := c.a, b := c.b } } <;> rfl

/-- Settles O6: it holds, as waiting is `idle`. -/
theorem stepWaitsForACommand : Obligations.StepWaitsForACommand := by
  intro s hp
  rw [step_of_pending_nil hp, idle]

/-! ### Overlapping accesses -/

/-- A field zero-extended to a word stands in the word's low bits. -/
theorem extractLsb'_setWidth_low {n : Nat} (b : BitVec n) (hn : n ≤ 32) :
    (b.setWidth 32 : Word).extractLsb' 0 n = b := by
  ext j hj
  have hword : j < 32 := by omega
  simp [hword, BitVec.getLsbD_eq_getElem hj]

/-- A field zero-extended to a word leaves zeros above it. -/
theorem extractLsb'_setWidth_above {n : Nat} (b : BitVec n) (m : Nat) :
    (b.setWidth 32 : Word).extractLsb' n m = 0 := by
  ext j hj
  simp

/-- The byte writes store `A[7:0]` (R101, R102). -/
theorem exec_of_byteWrite {i : Instr} (hi : i ∈ [Instr.svWrU8, .svWrI8]) (s : State) :
    exec i s = writeScalar 1 1 ((operandByte s).setWidth 32) s := by
  obtain rfl | rfl := by simpa using hi
  all_goals rfl

/-- The halfword writes store `A[15:0]` (R103, R104). -/
theorem exec_of_halfWrite {i : Instr} (hi : i ∈ [Instr.svWrU16, .svWrI16]) (s : State) :
    exec i s = writeScalar 2 2 ((operandHalf s).setWidth 32) s := by
  obtain rfl | rfl := by simpa using hi
  all_goals rfl

/-- SV_RD_U32 after a typed write answers the bytes written over zeros, whatever the buffer held (R100, R105). -/
theorem wordRead_after_write (w : Width) (hw : w ≠ .w0) (v : Word) (s : State) : ∃ t u,
    writeScalar (widthBytes w) (BitVec.ofNat 3 (widthBytes w)) v s = .next t ∧ exec .svRdU32 t = .next u ∧
    u.response.r = svWrite (widthBytes w) v 0#32 :=
  ⟨_, _, writeScalar_eq w hw v s, rfl, svRead_four _⟩

theorem svWrite_one_zeroExtended (b : Byte) : svWrite 1 (b.setWidth 32) 0#32 = b.setWidth 32 := by
  rw [svWrite_one, extractLsb'_setWidth_low b (by decide)]

theorem svWrite_two_zeroExtended (h : Half) : svWrite 2 (h.setWidth 32) 0#32 = h.setWidth 32 := by
  rw [svWrite_two, extractLsb'_setWidth_low h (by decide)]

/-- The narrow unsigned reads after SV_WR_U32 answer the low bytes of the word written (R54). -/
theorem narrowReads_after_wordWrite (s : State) : ∃ t, exec .svWrU32 s = .next t ∧
    (∃ u, exec .svRdU8 t = .next u ∧ u.response.r = (s.portA.extractLsb' 0 8).setWidth 32) ∧
    ∃ u, exec .svRdU16 t = .next u ∧ u.response.r = (s.portA.extractLsb' 0 16).setWidth 32 := by
  refine ⟨_, writeScalar_eq .w4 (by decide) s.portA s, ⟨_, rfl, ?_⟩, _, rfl, ?_⟩
  · change svRead 1 (svWrite 4 s.portA 0#32) = _
    rw [svWrite_four, svRead_one]
  · change svRead 2 (svWrite 4 s.portA 0#32) = _
    rw [svWrite_four, svRead_two]

/-- Settles O20: it holds, since a narrow write leaves its value zero-extended and SV_RD_U32 answers it whole. -/
theorem mixedWidthAccessesOverlap : Obligations.MixedWidthAccessesOverlap := by
  refine ⟨narrowReads_after_wordWrite, fun s i hi => ?_, fun s i hi => ?_, fun s => ?_⟩
  · obtain ⟨t, u, hwrite, hread, hr⟩ := wordRead_after_write .w1 (by decide) ((operandByte s).setWidth 32) s
    have hbyte : u.response.r = (operandByte s).setWidth 32 := hr.trans (svWrite_one_zeroExtended _)
    refine ⟨t, u, (exec_of_byteWrite hi s).trans hwrite, hread, ?_, ?_⟩ <;> rw [hbyte]
    · exact extractLsb'_setWidth_low _ (by decide)
    · exact extractLsb'_setWidth_above _ 24
  · obtain ⟨t, u, hwrite, hread, hr⟩ := wordRead_after_write .w2 (by decide) ((operandHalf s).setWidth 32) s
    have hhalf : u.response.r = (operandHalf s).setWidth 32 := hr.trans (svWrite_two_zeroExtended _)
    refine ⟨t, u, (exec_of_halfWrite hi s).trans hwrite, hread, ?_, ?_⟩ <;> rw [hhalf]
    · exact extractLsb'_setWidth_low _ (by decide)
    · exact extractLsb'_setWidth_above _ 16
  · obtain ⟨t, u, hwrite, hread, hr⟩ :=
      wordRead_after_write .w2 (by decide) ((f2h s.params.clamp (operandWord s)).setWidth 32) s
    refine ⟨t, u, hwrite, hread, ?_⟩
    rw [hr.trans (svWrite_two_zeroExtended _)]
    exact extractLsb'_setWidth_above _ 16

/-! ### Commands done twice -/

/-- The read-type commands (R57). -/
def readCommands : List Instr :=
  [.svRdU8, .svRdI8, .svRdU16, .svRdI16, .svRdU32, .svRdI32, .svRdF32, .svRdF16, .svRdSize,
   .entRdType, .entEnc, .statRd, .dsStat]

/-- A read-type command answers by a function of the state that does not look at the last response. -/
theorem exec_of_readCommand {i : Instr} (hi : i ∈ readCommands) : ∃ r : State → Response,
    (∀ s, exec i s = complete (r s) s) ∧ ∀ s p, r { s with resp := p } = r s := by
  simp only [readCommands, List.mem_cons, List.not_mem_nil, or_false] at hi
  rcases hi with rfl | rfl | rfl | rfl | rfl | rfl | rfl | rfl | rfl | rfl | rfl | rfl | rfl <;>
    exact ⟨_, fun _ => rfl, fun _ _ => rfl⟩

theorem readCommand_twice {i : Instr} (hi : i ∈ readCommands) (s : State) :
    ∃ t, exec i s = .next t ∧ t = { s with resp := t.resp } ∧ exec i t = .next t := by
  obtain ⟨r, hexec, hr⟩ := exec_of_readCommand hi
  refine ⟨{ s with resp := some (r s) }, hexec s, rfl, ?_⟩
  rw [hexec, hr, complete]

/-- A typed write writes a value that depends only on `A` and the parameters, with a width above 0. -/
theorem exec_of_scalarWrite {i : Instr} (hi : i ∈ scalarWrites) : ∃ (w : Width) (v : Word → Params → Word),
    w ≠ .w0 ∧ ∀ s, exec i s = writeScalar (widthBytes w) (BitVec.ofNat 3 (widthBytes w)) (v s.portA s.params) s := by
  simp only [scalarWrites, List.mem_cons, List.not_mem_nil, or_false] at hi
  rcases hi with rfl | rfl | rfl | rfl | rfl | rfl | rfl | rfl
  · exact ⟨.w1, fun a _ => (a.extractLsb' 0 8).setWidth 32, by decide, fun _ => rfl⟩
  · exact ⟨.w1, fun a _ => (a.extractLsb' 0 8).setWidth 32, by decide, fun _ => rfl⟩
  · exact ⟨.w2, fun a _ => (a.extractLsb' 0 16).setWidth 32, by decide, fun _ => rfl⟩
  · exact ⟨.w2, fun a _ => (a.extractLsb' 0 16).setWidth 32, by decide, fun _ => rfl⟩
  · exact ⟨.w4, fun a _ => a, by decide, fun _ => rfl⟩
  · exact ⟨.w4, fun a _ => a, by decide, fun _ => rfl⟩
  · exact ⟨.w4, fun a _ => a, by decide, fun _ => rfl⟩
  · exact ⟨.w2, fun a p => (f2h p.clamp a).setWidth 32, by decide, fun _ => rfl⟩

theorem scalarWrite_twice {i : Instr} (hi : i ∈ scalarWrites) (s : State) :
    ∃ t, exec i s = .next t ∧ exec i t = .next t := by
  obtain ⟨w, v, hw, hexec⟩ := exec_of_scalarWrite hi
  exact ⟨_, (hexec s).trans (writeScalar_eq w hw _ s), (hexec _).trans (writeScalar_eq w hw _ _)⟩

/-- The other idempotent writes give elements values that depend on the operand alone (R57). -/
theorem otherWrite_twice {i : Instr} (hi : i ∈ [Instr.entWrType, .entClr, .dsRst, .statClr]) (s : State) :
    ∃ t, exec i s = .next t ∧ exec i t = .next t := by
  simp only [List.mem_cons, List.not_mem_nil, or_false] at hi
  rcases hi with rfl | rfl | rfl | rfl <;> exact ⟨_, rfl, rfl⟩

/-- A scan inside a block with two data bytes to come: each DS_PUSH stores its byte and moves the cursor (R203). -/
def twoDataBytesDue : State := { State.reset with dsRest := 2 }

theorem dsPush_twice_moves_cursor : ∃ t u, exec .dsPush twoDataBytesDue = .next t ∧ exec .dsPush t = .next u ∧
    t.dsWc = 1 ∧ u.dsWc = 2 :=
  ⟨_, _, rfl, rfl, rfl, rfl⟩

/-- Settles O51: it holds, since what a read answers, and what the writes store, does not depend on what
they change; DS_PUSH, which moves the cursor it stores at, is the exception. -/
theorem readsAndIdempotentWrites : Obligations.ReadsAndIdempotentWrites := by
  refine ⟨fun i s hi => readCommand_twice hi s, fun i s hi => ?_, fun s => ⟨_, _, rfl, rfl, rfl⟩, ?_⟩
  · rcases List.mem_append.1 (show i ∈ scalarWrites ++ [.entWrType, .entClr, .dsRst, .statClr] from hi) with h | h
    · exact scalarWrite_twice h s
    · exact otherWrite_twice h s
  · obtain ⟨t, u, ht, hu, hwt, hwu⟩ := dsPush_twice_moves_cursor
    exact ⟨twoDataBytesDue, t, u, ht, hu, by rw [hwt, hwu]; decide⟩

end Sys2Proof.Machine
end

section
/-! The command word (30_encoding.md R70 to R75): a word with no reserved bit set is its three fields side
by side, and `decode_eq_ok_iff` says by the fields which words decode to which command. -/

namespace Sys2Proof.Machine

/-! ### The fields of a word -/

/-- A command word by its fields `OPC`, `VER` and `AVAIL` (R70). -/
def commandWord (opc : Byte) (ver avail : BitVec 3) : Word :=
  opc.setWidth 32 ||| (ver.setWidth 32 <<< 8) ||| (avail.setWidth 32 <<< 12)

/-- The reserved bits are bit 11 and bits 31:15 (R70). -/
theorem reservedMask_bit : ∀ i : Fin 32, (0xFFFF8800#32).getLsbD i = decide (i = 11 ∨ 15 ≤ i) := by decide

theorem reservedBits_bit (w : Word) {i : Nat} (hi : i < 32) :
    (reservedBits w).getLsbD i = (w.getLsbD i && decide (i = 11 ∨ 15 ≤ i)) := by
  have hmask : (0xFFFF8800#32).getLsbD i = decide (i = 11 ∨ 15 ≤ i) := by
    simpa [Fin.ext_iff, Fin.le_def] using reservedMask_bit ⟨i, hi⟩
  rw [reservedBits, BitVec.getLsbD_and, hmask]

section Fields
variable (opc : Byte) (ver avail : BitVec 3)

@[simp] theorem opcField_commandWord : opcField (commandWord opc ver avail) = opc := by
  ext i hi
  simp only [opcField, commandWord]
  interval_cases i <;> simp

@[simp] theorem verField_commandWord : verField (commandWord opc ver avail) = ver := by
  ext i hi
  simp only [verField, commandWord]
  interval_cases i <;> simp

@[simp] theorem availField_commandWord : availField (commandWord opc ver avail) = avail := by
  ext i hi
  simp only [availField, commandWord]
  interval_cases i <;> simp

@[simp] theorem reservedBits_commandWord : reservedBits (commandWord opc ver avail) = 0 := by
  ext i hi
  rw [← BitVec.getLsbD_eq_getElem, reservedBits_bit _ hi]
  simp only [commandWord]
  interval_cases i <;> simp

end Fields

theorem commandWord_fields {w : Word} (h : reservedBits w = 0) :
    commandWord (opcField w) (verField w) (availField w) = w := by
  ext i hi
  have hclear : i = 11 ∨ 15 ≤ i → w[i] = false := by
    intro hres
    have hbit := reservedBits_bit w hi
    simpa [h, hres, BitVec.getLsbD_eq_getElem hi] using hbit
  simp only [commandWord, opcField, verField, availField]
  interval_cases i <;> simp [hclear]

/-! ### The opcode map -/

/-- Every command of the opcode map is well formed and has no fields (R71, R74). -/
theorem opcodeTable_fields : ∀ row ∈ opcodeTable, row.2.WellFormed ∧ verOf row.2 = 0 ∧ availOf row.2 = 0 := by
  decide

theorem fields_of_plainCommand {opc : Byte} {i : Instr} (h : plainCommand opc = some i) :
    i.WellFormed ∧ verOf i = 0 ∧ availOf i = 0 := by
  obtain ⟨row, hfind, rfl⟩ := Option.map_eq_some_iff.1 h
  exact opcodeTable_fields row (List.mem_of_find?_eq_some hfind)

/-- The opcode map finds every command but ENT_DEC under its own opcode (R74). -/
theorem plainCommand_opcodeOf (i : Instr) (hdec : ∀ ver avail, i ≠ .entDec ver avail) :
    plainCommand (opcodeOf i) = some i := by
  cases i with
  | entDec ver avail => exact absurd rfl (hdec ver avail)
  | _ => decide

theorem opcodeOf_ne_entDecOpcode (i : Instr) (hdec : ∀ ver avail, i ≠ .entDec ver avail) :
    opcodeOf i ≠ entDecOpcode := by
  cases i with
  | entDec ver avail => exact absurd rfl (hdec ver avail)
  | _ => decide

/-- R75 lists exactly the opcodes that neither ENT_DEC nor the opcode map has. -/
theorem unassignedOpcode_iff : ∀ opc : Byte,
    UnassignedOpcode opc.toNat ↔ opc ≠ entDecOpcode ∧ plainCommand opc = none := by
  unfold UnassignedOpcode
  decide

/-! ### The encoder and the decoder by the fields -/

theorem ofNat_eq_setWidth {n : Nat} (h : n < 8) : BitVec.ofNat 32 n = (BitVec.ofNat 3 n).setWidth 32 := by
  apply BitVec.eq_of_toNat_eq
  simp only [BitVec.toNat_ofNat, BitVec.toNat_setWidth]
  omega

theorem entDec_wellFormed {ver avail : Nat} : (Instr.entDec ver avail).WellFormed ↔ ver < 8 ∧ avail < 8 := by
  simp [Instr.WellFormed, Instr.wf]

theorem encode_entDec {ver avail : Nat} (hver : ver < 8) (havail : avail < 8) :
    encode (.entDec ver avail) = commandWord entDecOpcode (BitVec.ofNat 3 ver) (BitVec.ofNat 3 avail) := by
  rw [commandWord, ← ofNat_eq_setWidth hver, ← ofNat_eq_setWidth havail]
  rfl

theorem encode_of_plainCommand {opc : Byte} {i : Instr} (h : plainCommand opc = some i) :
    encode i = commandWord opc 0 0 := by
  obtain ⟨-, hver, havail⟩ := fields_of_plainCommand h
  rw [encode, hver, havail, opcodeOf_of_plainCommand h]
  rfl

/-- The legal words by their fields: `OPC` is ENT_DEC and its two fields are free, or the two fields are 0
and the opcode map lists `OPC` (R71, R74). -/
theorem decode_eq_ok_iff {w : Word} {i : Instr} : decode w = .ok i ↔ reservedBits w = 0 ∧
    ((opcField w = entDecOpcode ∧ i = .entDec (verField w).toNat (availField w).toNat) ∨
     (opcField w ≠ entDecOpcode ∧ plainCommand (opcField w) = some i ∧ verField w = 0 ∧ availField w = 0)) := by
  unfold decode
  by_cases hres : reservedBits w = 0
  · rw [if_neg (not_not.2 hres)]
    by_cases hopc : opcField w = entDecOpcode
    · simp [hres, hopc, eq_comm]
    · rw [if_neg hopc]
      cases hplain : plainCommand (opcField w) with
      | none => simp [hopc]
      | some j =>
        by_cases hfields : verField w = 0 ∧ availField w = 0
        · simp [hres, hopc, hfields]
        · simp only [hfields, hopc]
          simp
  · rw [if_pos hres]
    exact iff_of_false nofun fun h => hres h.1

/-- Settles O1: it holds, since the fields of the encoded word are the command's own. -/
theorem decodeOfEncodeIsTheCommand : Obligations.DecodeOfEncodeIsTheCommand := by
  intro i hwf
  rw [decode_eq_ok_iff]
  by_cases hdec : ∃ ver avail, i = .entDec ver avail
  · obtain ⟨ver, avail, rfl⟩ := hdec
    obtain ⟨hver, havail⟩ := entDec_wellFormed.1 hwf
    rw [encode_entDec hver havail]
    simp [Nat.mod_eq_of_lt hver, Nat.mod_eq_of_lt havail]
  · have hplain : ∀ ver avail, i ≠ .entDec ver avail := fun ver avail h => hdec ⟨ver, avail, h⟩
    rw [encode_of_plainCommand (plainCommand_opcodeOf i hplain)]
    simp [opcodeOf_ne_entDecOpcode i hplain, plainCommand_opcodeOf i hplain]

/-- Settles O2: it holds, since a word with no reserved bit set is its fields, and those are the command's. -/
theorem decodedWordsAreEncodings : Obligations.DecodedWordsAreEncodings := by
  intro w i h
  obtain ⟨hres, ⟨hopc, rfl⟩ | ⟨-, hplain, hver, havail⟩⟩ := decode_eq_ok_iff.1 h
  · have hv := (verField w).isLt
    have ha := (availField w).isLt
    refine ⟨entDec_wellFormed.2 ⟨hv, ha⟩, ?_⟩
    rw [encode_entDec hv ha, BitVec.ofNat_toNat, BitVec.ofNat_toNat, BitVec.setWidth_eq,
      BitVec.setWidth_eq, ← hopc, commandWord_fields hres]
  · refine ⟨(fields_of_plainCommand hplain).1, ?_⟩
    calc encode i = commandWord (opcField w) 0 0 := encode_of_plainCommand hplain
      _ = commandWord (opcField w) (verField w) (availField w) := by rw [hver, havail]
      _ = w := commandWord_fields hres

/-- Settles O4: it holds, by evaluation of the decoder. -/
theorem sampleWordsDecode : Obligations.SampleWordsDecode := by
  unfold Obligations.SampleWordsDecode
  decide

/-! ### Illegal words -/

theorem reservedBits_eq_zero_iff (w : Word) : reservedBits w = 0 ↔ w.getLsbD 11 = false ∧ w.toNat < 2 ^ 15 := by
  constructor
  · intro h
    have hclear : ∀ i, i < 32 → i = 11 ∨ 15 ≤ i → w.getLsbD i = false := by
      intro i hi hres
      simpa [h, hres] using reservedBits_bit w hi
    refine ⟨hclear 11 (by decide) (.inl rfl), Nat.lt_pow_two_of_testBit _ fun i hi => ?_⟩
    by_cases h32 : i < 32
    · exact hclear i h32 (.inr hi)
    · exact BitVec.getLsbD_of_ge w i (by omega)
  · rintro ⟨h11, hlt⟩
    ext i hi
    rw [← BitVec.getLsbD_eq_getElem, reservedBits_bit w hi]
    by_cases hres : i = 11 ∨ 15 ≤ i
    · have hbit : w.getLsbD i = false := by
        rcases hres with rfl | hge
        · exact h11
        · exact Nat.testBit_lt_two_pow (hlt.trans_le (Nat.pow_le_pow_right (by decide) hge))
      simp [hbit]
    · simp [hres]

theorem decode_error_iff_no_command (w : Word) : (∃ e, decode w = .error e) ↔ ¬ ∃ i, decode w = .ok i := by
  cases decode w <;> simp

theorem exists_decode_eq_ok_iff (w : Word) : (∃ i, decode w = .ok i) ↔ reservedBits w = 0 ∧
    (opcField w = entDecOpcode ∨
     (opcField w ≠ entDecOpcode ∧ plainCommand (opcField w) ≠ none ∧ verField w = 0 ∧ availField w = 0)) := by
  simp only [decode_eq_ok_iff, exists_and_left, exists_or, exists_eq, and_true, exists_and_right,
    Option.ne_none_iff_exists']

/-- A word is refused just where its fields break `exists_decode_eq_ok_iff`: the cases of R71 and R75. -/
theorem decode_error_iff_illegalWord (w : Word) : (∃ e, decode w = .error e) ↔ IllegalWord w := by
  have hillegal : IllegalWord w ↔ (w.getLsbD 11 = true ∨ 2 ^ 15 ≤ w.toNat) ∨
      ((verField w ≠ 0 ∨ availField w ≠ 0) ∧ opcField w ≠ entDecOpcode) ∨
      UnassignedOpcode (opcField w).toNat := or_assoc.symm
  have hreserved : w.getLsbD 11 = true ∨ 2 ^ 15 ≤ w.toNat ↔ reservedBits w ≠ 0 := by
    rw [Ne, reservedBits_eq_zero_iff, not_and_or, Bool.not_eq_false, not_lt]
  rw [decode_error_iff_no_command, exists_decode_eq_ok_iff, hillegal, hreserved, unassignedOpcode_iff]
  tauto

/-- Settles O3: it holds, as the decoder refuses what the two rules name and `raise` is all such a step does. -/
theorem illegalWordsRaiseIllegalCommand : Obligations.IllegalWordsRaiseIllegalCommand := by
  refine ⟨decode_error_iff_illegalWord, fun s c rest hp hw => ?_⟩
  obtain ⟨e, he⟩ := (decode_error_iff_illegalWord c.cmd).2 hw
  refine ⟨s.faultLog ++ [{ code := .illegalCommand, opc := opcField c.cmd }], ?_⟩
  simp only [step, hp, he]
  rfl

end Sys2Proof.Machine
end

section
/-! The data formats on the ports (30_encoding.md): the bytes an assembled command puts on them (R78, R79) and
the fields of the version-4 tag byte (R85). -/

namespace Sys2Proof.Machine

/-! ### Assembled commands (R78, R79) -/

/-- Unsigned byte literals pack as the bytes they stand for. -/
theorem packWindow_map_toNat (bs : List Byte) :
    packWindow (bs.map fun b => (b.toNat : Int)) = windowOfBytes bs := by
  induction bs with
  | nil => rfl
  | cons b bs ih => simp [packWindow, windowOfBytes, ih, BitVec.ofInt_natCast]

theorem entryIssue_map_toNat {ver : Nat} {bs : List Byte} (hver : ver < 8) (hlen : bs.length ≤ 5) :
    entryIssue ver (bs.map fun b => (b.toNat : Int)) =
      .ok { cmd := encode (.entDec ver bs.length), a := 0, b := windowOfBytes bs } := by
  have hrange : (bs.map fun b => (b.toNat : Int)).all (fun n => decide (0 ≤ n) && decide (n ≤ 255)) = true := by
    simp only [List.all_map, List.all_eq_true]
    intro b _
    simp
    omega
  simp only [entryIssue, hver, hrange, not_true_eq_false, if_false, if_true, List.length_map, Nat.not_lt.2 hlen,
    packWindow_map_toNat]

/-- Settles O59: it holds, since the command's fields decode to themselves and the window lists the bytes. -/
theorem assembledEntryDecode : Obligations.AssembledEntryDecode := by
  intro ver bs hver hlen
  refine ⟨_, entryIssue_map_toNat hver hlen, ?_, fun k hk => ?_, fun k hk hk5 => ?_⟩
  · exact decodeOfEncodeIsTheCommand _ (entDec_wellFormed.2 ⟨hver, by omega⟩)
  · rw [windowOfBytes_byte bs k (by omega), List.getElem?_eq_getElem hk]
    rfl
  · rw [windowOfBytes_byte bs k hk5, List.getElem?_eq_none hk]
    rfl

theorem pushIssue_toNat (b : Byte) :
    pushIssue (b.toNat : Int) = .ok { cmd := 0x00000041#32, a := b.setWidth 32, b := 0 } := by
  have hb := b.isLt
  have hrange : (0 : Int) ≤ b.toNat ∧ (b.toNat : Int) ≤ 255 := by omega
  rw [pushIssue, if_pos hrange, BitVec.ofInt_natCast, BitVec.ofNat_toNat]
  rfl

theorem feedIssues_map_toNat (bs : List Byte) :
    feedIssues (bs.map fun b => AsmOperand.bare (b.toNat : Int)) =
      .ok (bs.map fun b => { cmd := 0x00000041#32, a := b.setWidth 32, b := 0 }) := by
  induction bs with
  | nil => rfl
  | cons b bs ih => simp only [List.map_cons, feedIssues, pushIssue_toNat, ih]

/-- A number of at most 32 bits is an immediate as it stands. -/
theorem immIssue_toNat (i : Instr) (v : Word) :
    immIssue i (v.toNat : Int) = .ok { cmd := encode i, a := v, b := 0 } := by
  have hv := v.isLt
  have hrange : -(2 ^ 31) ≤ (v.toNat : Int) ∧ (v.toNat : Int) ≤ 2 ^ 32 - 1 := by omega
  rw [immIssue, if_pos hrange, BitVec.ofInt_natCast, BitVec.ofNat_toNat, BitVec.setWidth_eq]

theorem assembleCommand_entWrType_char (c : BitVec 7) :
    assembleCommand .entWrType [.char c.toNat] = .ok { cmd := 0x00000031#32, a := c.setWidth 32, b := 0 } := by
  have hc : c.toNat < 128 := c.isLt
  have hchar : c.toNat = (c.setWidth 32 : Word).toNat := by
    rw [BitVec.toNat_setWidth]
    omega
  calc assembleCommand .entWrType [.char c.toNat]
    _ = immIssue .entWrType c.toNat := if_pos hc
    _ = .ok { cmd := 0x00000031#32, a := c.setWidth 32, b := 0 } := by
      rw [hchar]
      exact immIssue_toNat .entWrType _

/-- The pseudo-instructions are no mnemonics of R74. -/
theorem findMnemonic_pseudo : ∀ word ∈ ["DS_FEED", "DS_DECODE", "ENT_SET", "ENT_NEW"],
    findMnemonic word.toList = none := by decide

section Expansions
variable {ops : List AsmOperand}

theorem assembleWord_dsFeed (hops : ops ≠ []) : assembleWord "DS_FEED".toList ops = feedIssues ops := by
  rw [assembleWord, findMnemonic_pseudo "DS_FEED" (by decide)]
  exact if_neg hops

theorem assembleWord_dsDecode (hops : ops ≠ []) :
    assembleWord "DS_DECODE".toList ops = (feedIssues ops).map fun cs => plainIssue .dsRst :: cs := by
  have hfeed : ¬"DS_DECODE".toList = "DS_FEED".toList := by decide
  rw [assembleWord, findMnemonic_pseudo "DS_DECODE" (by decide)]
  exact (if_neg hfeed).trans (if_neg hops)

theorem assembleWord_entSet : assembleWord "ENT_SET".toList ops = entSetIssues ops := by
  rw [assembleWord, findMnemonic_pseudo "ENT_SET" (by decide)]
  rfl

end Expansions

theorem entSetIssues_char_toNat (c : BitVec 7) (v : Word) :
    entSetIssues [.char c.toNat, .imm (v.toNat : Int)] = .ok
      [{ cmd := 0x00000031#32, a := c.setWidth 32, b := 0 }, { cmd := 0x00000014#32, a := v, b := 0 }] := by
  have hvalue : assembleCommand .svWrU32 [.imm (v.toNat : Int)] = .ok { cmd := 0x00000014#32, a := v, b := 0 } :=
    immIssue_toNat .svWrU32 v
  simp only [entSetIssues, assembleCommand_entWrType_char, hvalue]

/-- Settles O60: it holds, by what each word issues and what each operand puts on `A`. -/
theorem pseudoInstructionExpansions : Obligations.PseudoInstructionExpansions := by
  refine ⟨fun bs hbs => ?_, fun c v => ?_, rfl⟩
  · have hops : bs.map (fun b => AsmOperand.bare (b.toNat : Int)) ≠ [] := by simpa using hbs
    refine ⟨(assembleWord_dsFeed hops).trans (feedIssues_map_toNat bs), ?_⟩
    rw [assembleWord_dsDecode hops, feedIssues_map_toNat]
    rfl
  · rw [assembleWord_entSet, entSetIssues_char_toNat]

/-! ### The version-4 tag byte (R85) -/

theorem tagByte_code (ty : BitVec 7) (w : Width) : (tagByte ty w).extractLsb' 0 6 = ty.extractLsb' 0 6 := by
  ext i hi
  cases w <;> simp only [tagByte, widthCode] <;> interval_cases i <;> simp

theorem tagByte_widthCode (ty : BitVec 7) (w : Width) : (tagByte ty w).extractLsb' 6 2 = widthCode w := by
  ext i hi
  cases w <;> simp only [tagByte, widthCode] <;> interval_cases i <;> simp

theorem widthOfCode_widthCode (w : Width) : widthOfCode (widthCode w) = w := by cases w <;> rfl

/-- Version 4 reads the width off bits 7:6 of the tag and adds 64 to bits 5:0 for the type (R82, R178). -/
theorem decodeTag_four (t : Byte) :
    decodeTag 4 t = ((t.extractLsb' 0 6).setWidth 7 + 64#7, widthOfCode (t.extractLsb' 6 2)) := by
  have hcode : (t &&& 0x3F#8).setWidth 7 = (t.extractLsb' 0 6).setWidth 7 := by
    ext i hi
    interval_cases i <;> simp
  rw [← hcode]
  rfl

theorem decodeTag_tagByte (ty : BitVec 7) (w : Width) :
    decodeTag 4 (tagByte ty w) = ((ty.extractLsb' 0 6).setWidth 7 + 64#7, w) := by
  rw [decodeTag_four, tagByte_code, tagByte_widthCode, widthOfCode_widthCode]

/-- Settles O36: it holds, since 64 leaves the low six bits, all the tag keeps of a type, as they are. -/
theorem typeCodeThroughTheTag : Obligations.TypeCodeThroughTheTag := by
  intro ty w
  rw [decodeTag_tagByte, tagByte_code]
  refine ⟨?_, rfl, rfl, fun h => ?_, fun h => ?_⟩ <;> apply BitVec.eq_of_toNat_eq
  · simp [BitVec.toNat_sub]
  · simp
    omega
  · simp
    omega

end Sys2Proof.Machine
end

section
/-! The stuffed stream (30_encoding.md R86) on the destuffer: what DS_PUSH does with each kind of byte while the
scratch buffer has room, and from it what a scan holds after a block, after a frame's blocks and at its delimiter. -/

namespace Sys2Proof.Machine

/-! ### DS_PUSH by the kind of its byte -/

/-- The substituted zero that a length byte writes before its block, if the flag asks for one (R202). -/
def writeDueZero (s : State) : State := if s.dsZf then storeByte 0x00#8 s else s

/-- The bytes that `writeDueZero` writes. -/
def dueZero (zf : Bool) : List Byte := if zf then [0x00#8] else []

/-- A zero where no data is due ends the frame (R201). -/
theorem execDsPush_delimiter {s : State} (hrest : s.dsRest = 0) (hb : operandByte s = 0)
    (hcursor : s.dsWc.toNat ≤ dsoSize) :
    execDsPush s = .next { s with dsWc := 0, dsZf := false, resp := some (delimiterResponse s) } := by
  simp only [execDsPush, hrest, hb, and_self, if_true, pushDelimiter, Nat.not_lt.2 hcursor, if_false, complete]

/-- A length byte writes the zero that is due and begins a block (R202). -/
theorem execDsPush_length {s : State} (hrest : s.dsRest = 0) (hb : operandByte s ≠ 0)
    (hroom : s.dsWc.toNat + (dueZero s.dsZf).length ≤ dsoSize) :
    execDsPush s = startBlock (operandByte s) (writeDueZero s) := by
  simp only [execDsPush, hrest, hb, and_false, if_false, if_true, pushLength, writeDueZero]
  split
  next hzf =>
    rw [hzf] at hroom
    exact putThen_room hroom
  next => rfl

/-- A data byte is stored at the cursor and counted down (R203). -/
theorem execDsPush_data {s : State} (hrest : s.dsRest ≠ 0) (hroom : s.dsWc.toNat < dsoSize) :
    execDsPush s = .next { storeByte (operandByte s) s with dsRest := s.dsRest - 1, resp := some {} } := by
  simp only [execDsPush, hrest, false_and, if_false, pushData]
  exact putThen_room hroom

/-- The state in which `push` runs DS_PUSH: the byte stands on `A` (R205). -/
def withByte (b : Byte) (s : State) : State := { s with operands := some { a := b.setWidth 32, b := 0 } }

theorem push_eq (b : Byte) (s : State) : push b s = execDsPush (withByte b s) := rfl

@[simp] theorem operandByte_withByte (b : Byte) (s : State) : operandByte (withByte b s) = b :=
  operandByte_setWidth b 0 s

/-! ### Feeding bytes -/

theorem feed_singleton {b : Byte} {s t : State} (h : push b s = .next t) :
    feed [b] s = some (t, if t.response.fv then [t.response.fdata] else []) := by
  rw [feed, h]
  simp [feed]

/-- Pushing `bs` leads from `s` to `t` and delivers no frame on the way. -/
def FeedsTo (bs : List Byte) (s t : State) : Prop := ∀ more, feed (bs ++ more) s = feed more t

theorem FeedsTo.refl (s : State) : FeedsTo [] s s := fun _ => rfl

theorem FeedsTo.append {bs cs : List Byte} {s t u : State} (hb : FeedsTo bs s t) (hc : FeedsTo cs t u) :
    FeedsTo (bs ++ cs) s u := fun more => by rw [List.append_assoc, hb, hc]

theorem feedsTo_of_push {b : Byte} {s t : State} (h : push b s = .next t) (hquiet : t.resp = some {}) :
    FeedsTo [b] s t := by
  intro more
  rw [List.singleton_append, feed, h]
  simp [hquiet]

/-! ### What a scan holds -/

/-- The bytes `bs` of a frame stand in `DSO` below the cursor. -/
structure Holds (bs : List Byte) (dso : Memory) (wc : BitVec 9) : Prop where
  cursor : wc.toNat = bs.length
  bytes : ∀ k, k < bs.length → dso.read k = bs[k]?

theorem holds_nil (dso : Memory) : Holds [] dso 0 := ⟨rfl, nofun⟩

/-- A byte stored at the cursor stands behind the bytes held. -/
theorem Holds.store {bs : List Byte} {dso : Memory} {wc : BitVec 9} (h : Holds bs dso wc)
    (hroom : bs.length < dsoSize) (v : Byte) : Holds (bs ++ [v]) (dso.write wc.toNat v) (wc + 1) where
  cursor := by
    have hcursor := h.cursor
    unfold dsoSize at hroom
    rw [List.length_append, List.length_singleton]
    bv_omega
  bytes k hk := by
    rw [List.length_append, List.length_singleton] at hk
    rw [h.cursor]
    by_cases hlast : k = bs.length
    · rw [hlast, memory_read_write_same, List.getElem?_concat_length]
    · have hlt : k < bs.length := by omega
      rw [memory_read_write_other _ _ _ _ hlast, h.bytes k hlt, List.getElem?_append_left hlt]

/-- The frame port lists the bytes held (R208). -/
theorem Holds.delivered {bs : List Byte} {s : State} (h : Holds bs s.dso s.dsWc) :
    (List.range s.dsWc.toNat).map (dsoByte s) = bs := by
  rw [h.cursor]
  refine List.ext_getElem (by simp) fun k hk hk' => ?_
  rw [List.getElem_map, List.getElem_range]
  exact dsoByte_of_read ((h.bytes k hk').trans (List.getElem?_eq_getElem hk'))

/-- What no byte of a frame with room changes: the parameters and both records of faults. -/
structure SameRecords (s t : State) : Prop where
  params : t.params = s.params
  faultLog : t.faultLog = s.faultLog
  status : t.status = s.status

theorem SameRecords.refl (s : State) : SameRecords s s := ⟨rfl, rfl, rfl⟩

theorem SameRecords.trans {s t u : State} (h : SameRecords s t) (h' : SameRecords t u) : SameRecords s u :=
  ⟨h'.params.trans h.params, h'.faultLog.trans h.faultLog, h'.status.trans h.status⟩

theorem withByte_sameRecords (b : Byte) (s : State) : SameRecords s (withByte b s) := ⟨rfl, rfl, rfl⟩

theorem writeDueZero_sameRecords (s : State) : SameRecords s (writeDueZero s) := by
  unfold writeDueZero
  split <;> exact ⟨rfl, rfl, rfl⟩

theorem Holds.writeDueZero {bs : List Byte} {s : State} (h : Holds bs s.dso s.dsWc)
    (hroom : (bs ++ dueZero s.dsZf).length ≤ dsoSize) :
    Holds (bs ++ dueZero s.dsZf) (writeDueZero s).dso (writeDueZero s).dsWc := by
  unfold Machine.writeDueZero dueZero at *
  split
  next hzf =>
    rw [if_pos hzf, List.length_append, List.length_singleton] at hroom
    exact h.store hroom 0x00#8
  next => rwa [List.append_nil]

/-! ### One block -/

/-- The length byte of the block with data `d` (R86). -/
def lengthByte (d : List Byte) : Byte := BitVec.ofNat 8 (d.length + 1)

section LengthByte
variable {d : List Byte} (hd : d.length ≤ 254)
include hd

theorem lengthByte_ne_zero : lengthByte d ≠ 0 := by
  unfold lengthByte
  bv_omega

theorem lengthByte_sub_one_toNat : (lengthByte d - 1).toNat = d.length := by
  unfold lengthByte
  bv_omega

/-- The flag that a block's length byte leaves asks for the gap behind the block (R86, R202). -/
theorem dueZero_after_length (p : CobsFF) : dueZero (zeroFlagAfterLength p (lengthByte d)) = blockGap p d := by
  cases p with
  | plain => rfl
  | classic =>
    have hlast : lengthByte d = 0xFF#8 ↔ d.length = 254 := by
      unfold lengthByte
      bv_omega
    by_cases h : d.length = 254 <;> simp [zeroFlagAfterLength, blockGap, dueZero, h, hlast]

/-- A length byte writes the zero that is due and begins its block (R202). -/
theorem feed_length {fr : List Byte} {s : State} (h : Holds fr s.dso s.dsWc) (hrest : s.dsRest = 0)
    (hroom : (fr ++ dueZero s.dsZf).length ≤ dsoSize) : ∃ t,
    FeedsTo [lengthByte d] s t ∧ Holds (fr ++ dueZero s.dsZf) t.dso t.dsWc ∧ SameRecords s t ∧
    t.dsRest.toNat = d.length ∧ dueZero t.dsZf = blockGap s.params.cobsFF d := by
  let u := withByte (lengthByte d) s
  have hroomCursor : s.dsWc.toNat + (dueZero s.dsZf).length ≤ dsoSize := by
    rwa [h.cursor, ← List.length_append]
  have hpush : push (lengthByte d) s = startBlock (lengthByte d) (writeDueZero u) := by
    have hb : operandByte u = lengthByte d := operandByte_withByte _ s
    rw [push_eq, execDsPush_length (s := u) hrest (hb ▸ lengthByte_ne_zero hd) hroomCursor, hb]
  have hsame : SameRecords s (writeDueZero u) := (withByte_sameRecords _ s).trans (writeDueZero_sameRecords u)
  have hgap : dueZero (zeroFlagAfterLength (writeDueZero u).params.cobsFF (lengthByte d)) =
      blockGap s.params.cobsFF d := by rw [dueZero_after_length hd, hsame.params]
  refine ⟨_, feedsTo_of_push hpush rfl, Holds.writeDueZero (s := u) h hroom,
    ⟨hsame.params, hsame.faultLog, hsame.status⟩, lengthByte_sub_one_toNat hd, hgap⟩

end LengthByte

/-- A data byte is put behind the bytes held (R203). -/
theorem feed_dataByte {fr : List Byte} {s : State} (h : Holds fr s.dso s.dsWc) (hrest : s.dsRest ≠ 0)
    (hroom : fr.length < dsoSize) (b : Byte) : ∃ t,
    FeedsTo [b] s t ∧ Holds (fr ++ [b]) t.dso t.dsWc ∧ SameRecords s t ∧
    t.dsRest = s.dsRest - 1 ∧ t.dsZf = s.dsZf := by
  have hpush := execDsPush_data (s := withByte b s) hrest (h.cursor ▸ hroom)
  rw [operandByte_withByte, ← push_eq] at hpush
  exact ⟨_, feedsTo_of_push hpush rfl, h.store hroom b, ⟨rfl, rfl, rfl⟩, rfl, rfl⟩

/-- The data bytes of a block are put as they stand, and then the next length byte or delimiter is due. -/
theorem feed_data {fr d : List Byte} {s : State} (h : Holds fr s.dso s.dsWc) (hrest : s.dsRest.toNat = d.length)
    (hroom : (fr ++ d).length ≤ dsoSize) : ∃ t,
    FeedsTo d s t ∧ Holds (fr ++ d) t.dso t.dsWc ∧ SameRecords s t ∧ t.dsRest = 0 ∧ t.dsZf = s.dsZf := by
  induction d generalizing fr s with
  | nil =>
    have hzero : s.dsRest = 0 := BitVec.toNat_inj.1 hrest
    exact ⟨s, .refl s, by rwa [List.append_nil], .refl s, hzero, rfl⟩
  | cons b d ih =>
    rw [List.length_cons] at hrest
    have hne : s.dsRest ≠ 0 := by bv_omega
    have hone : fr.length < dsoSize := by
      rw [List.length_append, List.length_cons] at hroom
      omega
    obtain ⟨t, hfeed, hholds, hsame, hcount, hflag⟩ := feed_dataByte h hne hone b
    have hcount' : t.dsRest.toNat = d.length := by
      rw [hcount]
      bv_omega
    obtain ⟨u, hfeed', hholds', hsame', hzero, hflag'⟩ := ih hholds hcount' (by rwa [List.append_assoc])
    rw [List.append_assoc] at hholds'
    exact ⟨u, hfeed.append hfeed', hholds', hsame.trans hsame', hzero, hflag'.trans hflag⟩

/-- A block puts the zero that is due and its data, and its own gap becomes due (R86). -/
theorem feed_block {fr d : List Byte} {s : State} (h : Holds fr s.dso s.dsWc) (hrest : s.dsRest = 0)
    (hd : d.length ≤ 254) (hroom : (fr ++ dueZero s.dsZf ++ d).length ≤ dsoSize) : ∃ t,
    FeedsTo (lengthByte d :: d) s t ∧ Holds (fr ++ dueZero s.dsZf ++ d) t.dso t.dsWc ∧ SameRecords s t ∧
    t.dsRest = 0 ∧ dueZero t.dsZf = blockGap s.params.cobsFF d := by
  have hroom' : (fr ++ dueZero s.dsZf).length ≤ dsoSize := by
    rw [List.length_append] at hroom
    omega
  obtain ⟨t, hfeed, hholds, hsame, hcount, hgap⟩ := feed_length hd h hrest hroom'
  obtain ⟨u, hfeed', hholds', hsame', hzero, hflag⟩ := feed_data hholds hcount hroom
  exact ⟨u, hfeed.append hfeed', hholds', hsame.trans hsame', hzero, by rw [hflag, hgap]⟩

/-! ### The blocks of a frame, and its delimiter -/

theorem stuffBlocks_cons (d : List Byte) (ds : List (List Byte)) :
    stuffBlocks (d :: ds) = lengthByte d :: d ++ stuffBlocks ds := rfl

/-- One or more blocks put the zero that is due and the data they join to (R86). -/
theorem feed_blocks {fr d : List Byte} {ds : List (List Byte)} {s : State} (h : Holds fr s.dso s.dsWc)
    (hrest : s.dsRest = 0) (hlen : ∀ e ∈ d :: ds, e.length ≤ 254)
    (hroom : (fr ++ dueZero s.dsZf ++ joinBlocks s.params.cobsFF (d :: ds)).length ≤ dsoSize) : ∃ t,
    FeedsTo (stuffBlocks (d :: ds)) s t ∧
    Holds (fr ++ dueZero s.dsZf ++ joinBlocks s.params.cobsFF (d :: ds)) t.dso t.dsWc ∧
    SameRecords s t ∧ t.dsRest = 0 := by
  induction ds generalizing d fr s with
  | nil =>
    obtain ⟨t, hfeed, hholds, hsame, hzero, -⟩ := feed_block h hrest (hlen d (by simp)) hroom
    exact ⟨t, by rwa [stuffBlocks_cons, stuffBlocks, List.append_nil], hholds, hsame, hzero⟩
  | cons e ds ih =>
    have hjoin : ∀ p, fr ++ dueZero s.dsZf ++ joinBlocks p (d :: e :: ds) =
        fr ++ dueZero s.dsZf ++ d ++ blockGap p d ++ joinBlocks p (e :: ds) := by
      intro p
      simp only [joinBlocks, List.append_assoc]
    rw [hjoin] at hroom ⊢
    have hroom' : (fr ++ dueZero s.dsZf ++ d).length ≤ dsoSize := by
      simp only [List.length_append] at hroom ⊢
      omega
    obtain ⟨t, hfeed, hholds, hsame, hzero, hgap⟩ := feed_block h hrest (hlen d (by simp)) hroom'
    rw [← hgap, ← hsame.params] at hroom ⊢
    obtain ⟨u, hfeed', hholds', hsame', hzero'⟩ := ih hholds hzero (fun e' he' => hlen e' (by simp [he'])) hroom
    exact ⟨u, hfeed.append hfeed', hholds', hsame.trans hsame', hzero'⟩

/-- The frame port at a delimiter shows the bytes held if they are more than 3, and is quiet otherwise (R201). -/
theorem Holds.delimiterResponse_frame {fr : List Byte} {s : State} (h : Holds fr s.dso s.dsWc) :
    (if (delimiterResponse s).fv then [(delimiterResponse s).fdata] else []) = if 3 < fr.length then [fr] else [] := by
  rw [delimiterResponse, h.cursor]
  split
  · simp only [frameResponse, h.delivered, if_true]
  · rfl

/-- The delimiter delivers the bytes held, if they are more than 3, and the scan starts afresh. -/
theorem feed_delimiter {fr : List Byte} {s : State} (h : Holds fr s.dso s.dsWc) (hrest : s.dsRest = 0)
    (hroom : fr.length ≤ dsoSize) : ∃ t,
    feed [0x00#8] s = some (t, if 3 < fr.length then [fr] else []) ∧
    t.dsWc = 0 ∧ t.dsRest = 0 ∧ t.dsZf = false ∧ SameRecords s t := by
  have hpush := execDsPush_delimiter (s := withByte 0 s) hrest (operandByte_withByte 0 s) (h.cursor ▸ hroom)
  have hfeed := (feed_singleton hpush).trans
    (congrArg (fun frames => some (_, frames)) (Holds.delimiterResponse_frame (s := withByte 0 s) h))
  exact ⟨_, hfeed, rfl, hrest, rfl, ⟨rfl, rfl, rfl⟩⟩

/-- Settles O46: it holds, by what the scan holds after each block. -/
theorem stuffedFrameDecoding : Obligations.StuffedFrameDecoding := by
  intro s blocks hwc hrest hzf hlen frame hroom
  have hsize : frame.length ≤ dsoSize := hroom
  have hblocks : ∃ t, FeedsTo (stuffBlocks blocks) s t ∧ Holds frame t.dso t.dsWc ∧ SameRecords s t ∧
      t.dsRest = 0 := by
    have hstart : Holds [] s.dso s.dsWc := hwc ▸ holds_nil s.dso
    cases blocks with
    | nil => exact ⟨s, .refl s, hstart, .refl s, hrest⟩
    | cons d ds => simpa [hzf, dueZero] using feed_blocks hstart hrest hlen (by simpa [hzf, dueZero] using hsize)
  obtain ⟨t, hfeed, hholds, hsame, hzero⟩ := hblocks
  obtain ⟨u, hdelim, hwc', hrest', hzf', hsame'⟩ := feed_delimiter hholds hzero hroom
  have hrecords := hsame.trans hsame'
  exact ⟨u, (hfeed _).trans hdelim, hwc', hrest', hzf', hrecords.faultLog, hrecords.status⟩

end Sys2Proof.Machine
end

section
/-! The Scalar View commands (40_scalar_view.md): a typed write leaves its value zero-extended over the whole
buffer, a typed read answers the low bytes of the buffer, and each command's word is its encoding (R74). -/

namespace Sys2Proof.Machine

/-! ### Typed writes -/

/-- A typed write leaves in `SV_BUF` what its bytes make of a zero buffer (R100, R105). -/
theorem writeScalar_of_svWrite (w : Width) (hw : w ≠ .w0) {v buf : Word} (h : svWrite (widthBytes w) v 0#32 = buf)
    (s : State) : writeScalar (widthBytes w) (BitVec.ofNat 3 (widthBytes w)) v s =
      .next { s with svBuf := buf, svSize := BitVec.ofNat 3 (widthBytes w), resp := some {} } := by
  rw [writeScalar_eq w hw, h]

/-- A 1-byte write zero-extends its byte (R101, R102). -/
theorem writeScalar_byte (b : Byte) (s : State) :
    writeScalar 1 1 (b.setWidth 32) s = .next { s with svBuf := b.setWidth 32, svSize := 1, resp := some {} } :=
  writeScalar_of_svWrite .w1 (by decide) (svWrite_one_zeroExtended b) s

/-- A 2-byte write zero-extends its halfword (R103, R104, R108). -/
theorem writeScalar_half (h : Half) (s : State) :
    writeScalar 2 2 (h.setWidth 32) s = .next { s with svBuf := h.setWidth 32, svSize := 2, resp := some {} } :=
  writeScalar_of_svWrite .w2 (by decide) (svWrite_two_zeroExtended h) s

/-- A 4-byte write stores its word bit for bit (R105, R106, R107). -/
theorem writeScalar_word (v : Word) (s : State) :
    writeScalar 4 4 v s = .next { s with svBuf := v, svSize := 4, resp := some {} } :=
  writeScalar_of_svWrite .w4 (by decide) (svWrite_four v 0#32) s

/-- Settles O12: it holds, since either command is the 1-byte write of `A[7:0]`. -/
theorem eightBitWrites : Obligations.EightBitWrites :=
  ⟨decodeOfEncodeIsTheCommand .svWrU8 rfl, decodeOfEncodeIsTheCommand .svWrI8 rfl,
    fun s => ⟨writeScalar_byte (operandByte s) s, writeScalar_byte (operandByte s) s⟩⟩

/-- Settles O13: it holds, since either command is the 2-byte write of `A[15:0]`. -/
theorem sixteenBitWrites : Obligations.SixteenBitWrites :=
  ⟨decodeOfEncodeIsTheCommand .svWrU16 rfl, decodeOfEncodeIsTheCommand .svWrI16 rfl,
    fun s => ⟨writeScalar_half (operandHalf s) s, writeScalar_half (operandHalf s) s⟩⟩

/-- Settles O14: it holds, since each command is the 4-byte write of `A`. -/
theorem thirtyTwoBitWrites : Obligations.ThirtyTwoBitWrites :=
  ⟨decodeOfEncodeIsTheCommand .svWrU32 rfl, decodeOfEncodeIsTheCommand .svWrI32 rfl,
    decodeOfEncodeIsTheCommand .svWrF32 rfl,
    fun s => ⟨writeScalar_word s.portA s, writeScalar_word s.portA s, writeScalar_word s.portA s⟩⟩

/-- Settles O15: it holds, since the command is the 2-byte write of F2H of `A`. -/
theorem float16ViewWrite : Obligations.Float16ViewWrite :=
  ⟨decodeOfEncodeIsTheCommand .svWrF16 rfl, fun s => writeScalar_half (f2h s.params.clamp s.portA) s⟩

/-! ### Typed reads -/

/-- A command that only answers `r` on `R` changes no state element (R57, R77). -/
theorem complete_answer {r r' : Word} (h : r = r') (s : State) :
    complete { r := r } s = .next { s with resp := some { r := r' } } := by
  rw [h, complete]

/-- The byte a 1-byte read takes from the buffer (R110, R111). -/
theorem svRead_one_byte (buf : Word) : (svRead 1 buf).setWidth 8 = buf.extractLsb' 0 8 := by
  rw [svRead_one, BitVec.setWidth_setWidth_of_le _ (by decide), BitVec.setWidth_eq]

/-- The halfword a 2-byte read takes from the buffer (R112, R113, R117). -/
theorem svRead_two_half (buf : Word) : (svRead 2 buf).setWidth 16 = buf.extractLsb' 0 16 := by
  rw [svRead_two, BitVec.setWidth_setWidth_of_le _ (by decide), BitVec.setWidth_eq]

/-- Settles O16: it holds, since the reads are of 1 and 2 bytes and zero-extend. -/
theorem unsignedNarrowReads : Obligations.UnsignedNarrowReads :=
  ⟨decodeOfEncodeIsTheCommand .svRdU8 rfl, decodeOfEncodeIsTheCommand .svRdU16 rfl,
    fun s => ⟨complete_answer (svRead_one s.svBuf) s, complete_answer (svRead_two s.svBuf) s⟩⟩

/-- Settles O17: it holds, since what the two reads sign-extend is the byte and the halfword read. -/
theorem signedNarrowReads : Obligations.SignedNarrowReads :=
  ⟨decodeOfEncodeIsTheCommand .svRdI8 rfl, decodeOfEncodeIsTheCommand .svRdI16 rfl,
    fun s => ⟨complete_answer (congrArg (BitVec.signExtend 32) (svRead_one_byte s.svBuf)) s,
      complete_answer (congrArg (BitVec.signExtend 32) (svRead_two_half s.svBuf)) s⟩⟩

/-- Settles O18: it holds, since each command reads all four bytes. -/
theorem thirtyTwoBitReads : Obligations.ThirtyTwoBitReads :=
  ⟨decodeOfEncodeIsTheCommand .svRdU32 rfl, decodeOfEncodeIsTheCommand .svRdI32 rfl,
    decodeOfEncodeIsTheCommand .svRdF32 rfl,
    fun s => ⟨complete_answer (svRead_four s.svBuf) s, complete_answer (svRead_four s.svBuf) s,
      complete_answer (svRead_four s.svBuf) s⟩⟩

/-- The size tag of a state that meets the invariant reads as 0, 1, 2 or 4 (R21, R118). -/
theorem State.Inv.svSize_read {s : State} (hs : s.Inv) : (s.svSize.setWidth 32 : Word) ∈ [0, 1, 2, 4] := by
  rcases hs.sizeLegal with h | h | h | h <;> rw [h] <;> decide

/-- Settles O19: it holds, by the halfword read, the size tag answered as it stands, and the legal sizes of the
invariant. -/
theorem float16ViewReadAndSizeRead : Obligations.Float16ViewReadAndSizeRead :=
  ⟨decodeOfEncodeIsTheCommand .svRdF16 rfl, decodeOfEncodeIsTheCommand .svRdSize rfl,
    fun s => ⟨complete_answer (congrArg h2f (svRead_two_half s.svBuf)) s, complete_answer rfl s,
      State.Inv.svSize_read⟩⟩

end Sys2Proof.Machine
end

section
/-! The binary16 converter (41_binary16.md): each statement by the fields of a result, which H2F and F2H
give from the fields of their input. -/

namespace Sys2Proof.Machine

/-! ### The fields of the two results -/

@[simp] theorem singleExp_h2f (h : Half) : singleExp (h2f h) = singleExpOfHalf (halfExp h) := by
  rw [h2f_eq_fields, singleExp_singleOf]

@[simp] theorem singleFracHigh_h2f (h : Half) : singleFracHigh (h2f h) = halfFrac h := by
  rw [h2f_eq_fields, singleFracHigh_singleOf]

/-- The sign is dropped for a zero only (R141). -/
@[simp] theorem singleSign_h2f (h : Half) :
    singleSign (h2f h) = if halfExp h = 0 ∧ halfFrac h = 0 then 0#1 else halfSign h := by
  rw [h2f_eq_fields, singleSign_singleOf]

@[simp] theorem halfSign_f2h (c : Clamp) (x : Word) : halfSign (f2h c x) = singleSign x := by
  rw [f2h_eq_fields, halfSign_halfOf]

@[simp] theorem halfExp_f2h (c : Clamp) (x : Word) : halfExp (f2h c x) = halfExpOfSingle c (singleExp x) := by
  rw [f2h_eq_fields, halfExp_halfOf]

@[simp] theorem halfFrac_f2h (c : Clamp) (x : Word) : halfFrac (f2h c x) = singleFracHigh x := by
  rw [f2h_eq_fields, halfFrac_halfOf]

/-! ### The exponent fields by range -/

section HalfExponent
variable {e : BitVec 5}

@[simp] theorem singleExpOfHalf_zero : singleExpOfHalf 0 = 0 := rfl

@[simp] theorem singleExpOfHalf_ones : singleExpOfHalf 0x1F#5 = 0xFF#8 := rfl

/-- A normal half exponent is rebiased by 112 (R145). -/
theorem singleExpOfHalf_normal (h0 : e ≠ 0) (h1 : e ≠ 0x1F#5) : (singleExpOfHalf e).toNat = e.toNat + 112 := by
  rw [singleExpOfHalf, if_neg h0, if_neg h1]
  bv_omega

theorem singleExpOfHalf_eq_zero_iff : singleExpOfHalf e = 0 ↔ e = 0 := by
  revert e
  decide

theorem singleExpOfHalf_eq_ones_iff : singleExpOfHalf e = 0xFF#8 ↔ e = 0x1F#5 := by
  revert e
  decide

end HalfExponent

section SingleExponent
variable {c : Clamp} {E : BitVec 8}

@[simp] theorem halfExpOfSingle_zero : halfExpOfSingle c 0 = 0 := rfl

@[simp] theorem halfExpOfSingle_ones : halfExpOfSingle c 0xFF#8 = 0x1F#5 := rfl

/-- The clamp as written gives 31 for every normal single (R153). -/
theorem halfExpOfSingle_asWritten (h0 : E ≠ 0) : halfExpOfSingle .asWritten E = 0x1F#5 := by
  rw [halfExpOfSingle, if_neg h0, ite_self]

theorem halfExpOfSingle_corrected_low (h : E.toNat ≤ 112) : halfExpOfSingle .corrected E = 0 := by
  have h1 : E ≠ 0xFF#8 := by bv_omega
  simp only [halfExpOfSingle, h1, h, if_false, if_true, ite_self]

theorem halfExpOfSingle_corrected_mid (hlo : 113 ≤ E.toNat) (hhi : E.toNat ≤ 142) :
    halfExpOfSingle .corrected E = BitVec.ofNat 5 (E.toNat - 112) := by
  have h0 : E ≠ 0 := by bv_omega
  have h1 : E ≠ 0xFF#8 := by bv_omega
  have h112 : ¬ E.toNat ≤ 112 := by omega
  simp only [halfExpOfSingle, h0, h1, h112, hhi, if_false, if_true]

theorem halfExpOfSingle_corrected_high (h : 143 ≤ E.toNat) : halfExpOfSingle .corrected E = 0x1F#5 := by
  have h0 : E ≠ 0 := by bv_omega
  have h112 : ¬ E.toNat ≤ 112 := by omega
  have h142 : ¬ E.toNat ≤ 142 := by omega
  simp only [halfExpOfSingle, h0, h112, h142, if_false, ite_self]

theorem halfExpOfSingle_corrected_mid_toNat (hlo : 113 ≤ E.toNat) (hhi : E.toNat ≤ 142) :
    (halfExpOfSingle .corrected E).toNat = E.toNat - 112 := by
  rw [halfExpOfSingle_corrected_mid hlo hhi, BitVec.toNat_ofNat]
  omega

/-- The corrected clamp takes back the rebias (R163). -/
theorem halfExpOfSingle_corrected_singleExpOfHalf (e : BitVec 5) :
    halfExpOfSingle .corrected (singleExpOfHalf e) = e := by
  by_cases h0 : e = 0
  · rw [h0, singleExpOfHalf_zero, halfExpOfSingle_zero]
  by_cases h1 : e = 0x1F#5
  · rw [h1, singleExpOfHalf_ones, halfExpOfSingle_ones]
  have hE := singleExpOfHalf_normal h0 h1
  apply BitVec.eq_of_toNat_eq
  rw [halfExpOfSingle_corrected_mid_toNat (by bv_omega) (by bv_omega), hE, Nat.add_sub_cancel]

/-- The rebias takes back the corrected clamp where the clamp keeps the exponent (R164). -/
theorem singleExpOfHalf_halfExpOfSingle_corrected (hlo : 113 ≤ E.toNat) (hhi : E.toNat ≤ 142) :
    singleExpOfHalf (halfExpOfSingle .corrected E) = E := by
  have he := halfExpOfSingle_corrected_mid_toNat hlo hhi
  apply BitVec.eq_of_toNat_eq
  rw [singleExpOfHalf_normal (by bv_omega) (by bv_omega), he]
  omega

end SingleExponent

/-! ### F2H by fields, and truncation -/

/-- Settles O22: it holds, by the fields of the result and the exponent's value on each range. -/
theorem singleToHalfFields : Obligations.SingleToHalfFields := by
  intro c x
  have hexp : (f2h c x).extractLsb' 10 5 = halfExpOfSingle c (singleExp x) := halfExp_f2h c x
  rw [hexp]
  refine ⟨halfSign_f2h c x, halfFrac_f2h c x, fun h => ?_, fun h => ?_, ?_, ?_, ?_, ?_⟩
  · have h0 : singleExp x = 0 := BitVec.eq_of_toNat_eq h
    rw [h0, halfExpOfSingle_zero]
  · have h1 : singleExp x = 0xFF#8 := BitVec.eq_of_toNat_eq h
    rw [h1, halfExpOfSingle_ones]
    rfl
  · rintro hlo - rfl
    have h0 : singleExp x ≠ 0 := fun h => absurd (congrArg BitVec.toNat h) (Nat.ne_of_gt hlo)
    exact halfExpOfSingle_asWritten h0
  · rintro - hhi rfl
    exact halfExpOfSingle_corrected_low hhi
  · rintro hlo hhi rfl
    exact halfExpOfSingle_corrected_mid_toNat hlo hhi
  · rintro hlo - rfl
    exact halfExpOfSingle_corrected_high hlo

/-- Singles that agree on a run of bits agree on every field that lies in it. -/
theorem extractLsb'_congr_of_within {x y : Word} {start len lo n : Nat}
    (h : x.extractLsb' start len = y.extractLsb' start len) (hlo : start ≤ lo) (hhi : lo + n ≤ start + len) :
    x.extractLsb' lo n = y.extractLsb' lo n := by
  have hfield (z : Word) : z.extractLsb' lo n = (z.extractLsb' start len).extractLsb' (lo - start) n := by
    ext i hi
    have hin : lo - start + i < len := by omega
    have hbit : start + (lo - start + i) = lo + i := by omega
    simp only [BitVec.getElem_extractLsb', BitVec.getLsbD_extractLsb', hin, hbit, decide_true, Bool.true_and]
  rw [hfield x, hfield y, h]

/-- Settles O27: it holds, since the three fields F2H reads lie in the upper 19 bits. -/
theorem singleToHalfTruncates : Obligations.SingleToHalfTruncates := by
  intro c x y h
  have hsign : singleSign x = singleSign y := extractLsb'_congr_of_within h (by decide) (by decide)
  have hexp : singleExp x = singleExp y := extractLsb'_congr_of_within h (by decide) (by decide)
  have hfrac : singleFracHigh x = singleFracHigh y := extractLsb'_congr_of_within h (by decide) (by decide)
  rw [f2h_eq_fields, f2h_eq_fields, hsign, hexp, hfrac]

/-- Settles O26: it holds, since the clamp is asked for no zero, infinity or NaN. -/
theorem float16ExtremesUnderBothClamps : Obligations.Float16ExtremesUnderBothClamps := by
  intro c
  cases c <;> decide

/-! ### Half to single and back -/

/-- The zeros are the patterns 0x0000 and 0x8000. -/
theorem half_zero_cases {h : Half} (he : halfExp h = 0) (hf : halfFrac h = 0) :
    h = 0x0000#16 ∨ h = 0x8000#16 := by
  rw [← halfOf_fields h, he, hf]
  obtain hs | hs := BitVec.eq_zero_or_eq_one (halfSign h) <;> rw [hs] <;> decide

/-- H2F keeps the sign of every half but the negative zero (R141). -/
theorem singleSign_h2f_of_ne {h : Half} (hne : h ≠ 0x8000#16) : singleSign (h2f h) = halfSign h := by
  rw [singleSign_h2f]
  split
  next hzero =>
    obtain rfl := (half_zero_cases hzero.1 hzero.2).resolve_right hne
    rfl
  next => rfl

/-- There and back, a half but the negative zero keeps its sign and fraction (R163). -/
theorem f2h_h2f_of_ne (c : Clamp) {h : Half} (hne : h ≠ 0x8000#16) :
    f2h c (h2f h) = halfOf (halfSign h) (halfExpOfSingle c (singleExpOfHalf (halfExp h))) (halfFrac h) := by
  rw [f2h_eq_fields, singleSign_h2f_of_ne hne, singleExp_h2f, singleFracHigh_h2f]

/-- A half whose exponent comes back comes back itself. -/
theorem f2h_h2f_eq_self {c : Clamp} {h : Half} (hne : h ≠ 0x8000#16)
    (he : halfExpOfSingle c (singleExpOfHalf (halfExp h)) = halfExp h) : f2h c (h2f h) = h := by
  rw [f2h_h2f_of_ne c hne, he, halfOf_fields]

theorem f2h_corrected_h2f {h : Half} (hne : h ≠ 0x8000#16) : f2h .corrected (h2f h) = h :=
  f2h_h2f_eq_self hne (halfExpOfSingle_corrected_singleExpOfHalf (halfExp h))

/-- The negative zero comes back as the positive one (R141, R163). -/
theorem f2h_h2f_negativeZero (c : Clamp) : f2h c (h2f 0x8000#16) = 0x0000#16 := by
  cases c <;> decide

/-- Settles O24: it holds, by what comes back of the exponent under either clamp. -/
theorem halfToSingleAndBack : Obligations.HalfToSingleAndBack := by
  refine ⟨fun _ => f2h_corrected_h2f, fun h hne hclass => f2h_h2f_eq_self hne ?_, fun h h0 h1 => ?_,
    f2h_h2f_negativeZero⟩
  · obtain he | he : halfExp h = 0 ∨ halfExp h = 0x1F#5 := hclass
    · rw [he, singleExpOfHalf_zero, halfExpOfSingle_zero]
    · rw [he, singleExpOfHalf_ones, halfExpOfSingle_ones]
  · have hne : h ≠ 0x8000#16 := fun h8 => h0 (h8 ▸ rfl)
    have hE : singleExpOfHalf (halfExp h) ≠ 0 := fun hE => h0 (singleExpOfHalf_eq_zero_iff.1 hE)
    rw [f2h_h2f_of_ne _ hne, halfExpOfSingle_asWritten hE]
    rfl

/-! ### H2F: the exponent class, injectivity and the five branches -/

/-- H2F tells any two halves apart but the two zeros, since F2H takes it back on the others (R162, R163). -/
theorem h2f_eq_cases {h k : Half} (heq : h2f h = h2f k) :
    h = k ∨ (h = 0x0000#16 ∧ k = 0x8000#16) ∨ (h = 0x8000#16 ∧ k = 0x0000#16) := by
  have hback : f2h .corrected (h2f h) = f2h .corrected (h2f k) := congrArg _ heq
  by_cases hh : h = 0x8000#16 <;> by_cases hk : k = 0x8000#16
  · exact .inl (hh.trans hk.symm)
  · rw [hh, f2h_h2f_negativeZero, f2h_corrected_h2f hk] at hback
    exact .inr (.inr ⟨hh, hback.symm⟩)
  · rw [hk, f2h_h2f_negativeZero, f2h_corrected_h2f hh] at hback
    exact .inr (.inl ⟨hback, hk⟩)
  · rw [f2h_corrected_h2f hh, f2h_corrected_h2f hk] at hback
    exact .inl hback

/-- Settles O23: it holds, by the result's exponent field and the way back. -/
theorem halfToSinglePreservesClass : Obligations.HalfToSinglePreservesClass := by
  refine ⟨fun h => ?_, fun h k => h2f_eq_cases, by decide, by decide⟩
  have hexp : (h2f h).extractLsb' 23 8 = singleExpOfHalf (halfExp h) := singleExp_h2f h
  rw [hexp]
  exact ⟨singleExpOfHalf_eq_zero_iff, singleExpOfHalf_eq_ones_iff, singleExpOfHalf_normal⟩

/-- Settles O21: it holds, by the branches of H2F. -/
theorem halfToSingleBranches : Obligations.HalfToSingleBranches := by
  intro h s e f f32
  have hne : e = 0x1F#5 → ¬ e = 0 := fun he h0 => absurd (he.symm.trans h0) (by decide)
  refine ⟨fun he hf => ?_, fun he hf => ?_, fun he hf => ?_, fun he hf => ?_, fun hlo hhi => ?_⟩
  · exact (if_pos he).trans (if_pos hf)
  · exact (if_pos he).trans (if_neg hf)
  · exact (if_neg (hne he)).trans ((if_pos he).trans (if_pos hf))
  · exact (if_neg (hne he)).trans ((if_pos he).trans (if_neg hf))
  · have h0 : e ≠ 0 := by bv_omega
    have h1 : e ≠ 0x1F#5 := by bv_omega
    have hrebias : e.setWidth 32 + 112#32 = BitVec.ofNat 32 (e.toNat + 112) := by bv_omega
    rw [← hrebias]
    exact (if_neg h0).trans (if_neg h1)

/-! ### Single to half and back -/

/-- A single comes back when F2H drops no fraction bit, its exponent comes back, and it does not fall to a
zero, whose sign H2F drops. -/
theorem h2f_f2h_eq_self {c : Clamp} {x : Word} (hlow : singleFracLow x = 0#13)
    (hexp : singleExpOfHalf (halfExpOfSingle c (singleExp x)) = singleExp x)
    (hne : ¬ (singleExp x = 0 ∧ singleFracHigh x = 0)) : h2f (f2h c x) = x := by
  have hzero : ¬ (halfExpOfSingle c (singleExp x) = 0 ∧ singleFracHigh x = 0) := by
    rwa [← singleExpOfHalf_eq_zero_iff, hexp]
  calc h2f (f2h c x)
      = singleOf (singleSign x) (singleExp x) (singleFracHigh x) (singleFracLow x) := by
        rw [h2f_eq_fields, halfSign_f2h, halfExp_f2h, halfFrac_f2h, if_neg hzero, hexp, hlow]
    _ = x := singleOf_fields x

/-- Settles O25: it holds, since on each range the exponent comes back and the half is no zero. -/
theorem singleToHalfAndBack : Obligations.SingleToHalfAndBack := by
  intro x hlow E hrange
  obtain ⟨hlo, hhi⟩ | h255 | ⟨h0, hfrac⟩ := hrange
  · have hne : singleExp x ≠ 0 := by
      change 113 ≤ (singleExp x).toNat at hlo
      bv_omega
    exact h2f_f2h_eq_self hlow (singleExpOfHalf_halfExpOfSingle_corrected hlo hhi) fun h => hne h.1
  · have hE : singleExp x = 0xFF#8 := BitVec.eq_of_toNat_eq h255
    refine h2f_f2h_eq_self hlow ?_ fun h => absurd (hE.symm.trans h.1) (by decide)
    rw [hE, halfExpOfSingle_ones, singleExpOfHalf_ones]
  · have hE : singleExp x = 0 := BitVec.eq_of_toNat_eq h0
    refine h2f_f2h_eq_self hlow ?_ fun h => hfrac h.2
    rw [hE, halfExpOfSingle_zero, singleExpOfHalf_zero]

/-! ### The commands -/

/-- Settles O28: it holds, since either command only answers its conversion. -/
theorem converterCommands : Obligations.ConverterCommands :=
  ⟨decodeOfEncodeIsTheCommand .cvH2F rfl, decodeOfEncodeIsTheCommand .cvF2H rfl,
    fun s => ⟨complete_answer rfl s, complete_answer rfl s⟩⟩

end Sys2Proof.Machine
end

section
/-! The entry codec (42_entry_codec.md): the width function by the value's range, the bytes ENT_ENC puts on `RB`,
what ENT_DEC does for each outcome of its checks, and the version-4 round trip. -/

namespace Sys2Proof.Machine

/-! ### The width function -/

/-- The largest value that gets width 0: the mask 0xFE does not see bit 0 (R173, R182). -/
def widthZeroMax : W1Mask → Nat
  | .ff => 0
  | .fe => 1

/-- A word below `2 ^ n` is its low `n` bits. -/
theorem setWidth_extractLsb'_of_lt {v : Word} {n : Nat} (h : v.toNat < 2 ^ n) :
    (v.extractLsb' 0 n).setWidth 32 = v := by
  apply BitVec.eq_of_toNat_eq
  rw [BitVec.toNat_setWidth, BitVec.extractLsb'_toNat, Nat.shiftRight_zero, Nat.mod_eq_of_lt h, Nat.mod_eq_of_lt v.isLt]

/-- The top field of a word is zero where the word lies below it. -/
theorem extractLsb'_eq_zero_iff {v : Word} {lo n : Nat} (h : v.toNat < 2 ^ (lo + n)) :
    v.extractLsb' lo n = 0 ↔ v.toNat < 2 ^ lo := by
  have hfield : (v.extractLsb' lo n).toNat = v.toNat / 2 ^ lo := by
    rw [BitVec.extractLsb'_toNat, Nat.shiftRight_eq_div_pow]
    exact Nat.mod_eq_of_lt (Nat.div_lt_of_lt_mul (by rwa [← Nat.pow_add]))
  rw [BitVec.toNat_eq, hfield]
  simp [Nat.div_eq_zero_iff]

theorem byte_and_w1MaskWord_eq_zero_iff (m : W1Mask) :
    ∀ b : Byte, b.setWidth 32 &&& w1MaskWord m = 0 ↔ (b.setWidth 32 : Word).toNat ≤ widthZeroMax m := by
  cases m <;> decide

/-- The test for width 1, on a value of one byte (R173). -/
theorem and_w1MaskWord_eq_zero_iff (m : W1Mask) {raw : Word} (hraw : raw.toNat < 2 ^ 8) :
    raw &&& w1MaskWord m = 0 ↔ raw.toNat ≤ widthZeroMax m := by
  rw [← setWidth_extractLsb'_of_lt hraw]
  exact byte_and_w1MaskWord_eq_zero_iff m (raw.extractLsb' 0 8)

theorem widthZeroMax_le_one (m : W1Mask) : widthZeroMax m ≤ 1 := by cases m <;> decide

/-- The width by the value's range (R173, R182). -/
theorem widthBytes_widthOf (m : W1Mask) (raw : Word) : widthBytes (widthOf m raw) =
    if raw.toNat ≤ widthZeroMax m then 0 else if raw.toNat ≤ 0xFF then 1 else if raw.toNat ≤ 0xFFFF then 2 else 4 := by
  have hzero := widthZeroMax_le_one m
  have hhigh : raw.extractLsb' 16 16 = 0 ↔ raw.toNat < 2 ^ 16 := extractLsb'_eq_zero_iff raw.isLt
  unfold widthOf
  split
  next h4 =>
    have hbig := mt hhigh.2 h4
    rw [if_neg (by omega), if_neg (by omega), if_neg (by omega), widthBytes]
  next h4 =>
    have h16 : raw.toNat < 2 ^ 16 := hhigh.1 (not_not.1 h4)
    have hmid : raw.extractLsb' 8 8 = 0 ↔ raw.toNat < 2 ^ 8 := extractLsb'_eq_zero_iff h16
    split
    next h2 =>
      have hbig := mt hmid.2 h2
      rw [if_neg (by omega), if_neg (by omega), if_pos (by omega), widthBytes]
    next h2 =>
      have h8 : raw.toNat < 2 ^ 8 := hmid.1 (not_not.1 h2)
      have hlow := and_w1MaskWord_eq_zero_iff m h8
      split
      next h1 => rw [if_neg (mt hlow.2 h1), if_pos (by omega), widthBytes]
      next h1 => rw [if_pos (hlow.1 (not_not.1 h1)), widthBytes]

/-- Settles O30: it holds, as the two masks differ only in the largest value of width 0. -/
theorem encoderWidthTable : Obligations.EncoderWidthTable := by
  intro raw
  refine ⟨?_, widthBytes_widthOf .fe raw⟩
  rw [widthBytes_widthOf, widthZeroMax]
  simp only [Nat.le_zero]

/-- A value fits the bytes of its width under the default mask (R173). -/
theorem toNat_lt_of_widthOf_ff (raw : Word) : raw.toNat < 2 ^ (8 * widthBytes (widthOf .ff raw)) := by
  rw [widthBytes_widthOf, widthZeroMax]
  split_ifs <;> omega

theorem widthBytes_le_four (w : Width) : widthBytes w ≤ 4 := by cases w <;> decide

/-- `RLEN` holds the count of an entry's bytes (R175, R181). -/
theorem rlen_toNat (w : Width) : (BitVec.ofNat 3 (1 + widthBytes w)).toNat = 1 + widthBytes w := by
  cases w <;> rfl

/-! ### The bytes of a value -/

/-- Bits of a field are bits of the word. -/
theorem extractLsb'_extractLsb' {n start len lo m : Nat} (x : BitVec n) (h : lo + m ≤ len) :
    (x.extractLsb' start len).extractLsb' lo m = x.extractLsb' (start + lo) m := by
  ext i hi
  have hin : lo + i < len := by omega
  simp [hin, Nat.add_assoc]

/-- A write sees no more of its value than the bytes it writes. -/
theorem svWrite_congr {v v' : Word} (buf : Word) {n : Nat} (h : ∀ k, k < n → svByte v k = svByte v' k) :
    svWrite n v buf = svWrite n v' buf := by
  induction n with
  | zero => rfl
  | succ n ih => rw [svWrite, svWrite, ih fun k hk => h k (by omega), h n (by omega)]

/-- A value that fits a width is written whole over zeros. -/
theorem svWrite_of_fits (w : Width) {v : Word} (h : v.toNat < 2 ^ (8 * widthBytes w)) :
    svWrite (widthBytes w) v 0#32 = v := by
  cases w with
  | w0 =>
    have hv : v = 0#32 := BitVec.eq_of_toNat_eq (Nat.lt_one_iff.1 h)
    rw [hv]
    rfl
  | w1 => exact (svWrite_one v).trans (setWidth_extractLsb'_of_lt h)
  | w2 => exact (svWrite_two v).trans (setWidth_extractLsb'_of_lt h)
  | w4 => exact svWrite_four v 0#32

/-- `B.byte(k + 1)` is byte `k` of the value (R84). -/
theorem svByte_windowValue (b : Window) {k : Nat} (hk : k < 4) :
    svByte (windowValue b) k = b.extractLsb' (8 * (1 + k)) 8 := by
  rw [svByte, windowValue, extractLsb'_extractLsb' b (by omega), Nat.mul_add]

theorem svWrite_one_windowValue (b : Window) :
    svWrite 1 (windowValue b) 0#32 = (b.extractLsb' 8 8).setWidth 32 := by
  rw [svWrite_one, windowValue, extractLsb'_extractLsb' b (by decide)]

theorem svWrite_two_windowValue (b : Window) :
    svWrite 2 (windowValue b) 0#32 = (b.extractLsb' 8 16).setWidth 32 := by
  rw [svWrite_two, windowValue, extractLsb'_extractLsb' b (by decide)]

/-! ### ENT_ENC -/

section EncodedWindow
variable (ty : BitVec 7) (w : Width) (raw : Word)

theorem encodedWindow_tag : (windowOfBytes (entryBytes ty w raw)).extractLsb' 0 8 = tagByte ty w :=
  windowOfBytes_byte (entryBytes ty w raw) 0 (by decide)

theorem encodedWindow_value {k : Nat} (hk : k < widthBytes w) :
    (windowOfBytes (entryBytes ty w raw)).extractLsb' (8 * (1 + k)) 8 = svByte raw k := by
  have hw := widthBytes_le_four w
  rw [windowOfBytes_byte _ _ (by omega), Nat.add_comm]
  simp [entryBytes, hk]

theorem encodedWindow_above {k : Nat} (hlo : widthBytes w < k) (hhi : k ≤ 4) :
    (windowOfBytes (entryBytes ty w raw)).extractLsb' (8 * k) 8 = 0 := by
  rw [windowOfBytes_byte _ _ (by omega), List.getElem?_eq_none (by simp [entryBytes]; omega)]
  rfl

end EncodedWindow

/-- ENT_ENC answers the bytes of the entry and their count (R175). -/
theorem exec_entEnc (s : State) : exec .entEnc s = .next
    { s with
      resp := some
        { rb := windowOfBytes (entryBytes s.entType (widthOf s.params.w1mask s.svBuf) s.svBuf)
          rlen := BitVec.ofNat 3 (1 + widthBytes (widthOf s.params.w1mask s.svBuf)) } } := by
  change execEntEnc s = _
  rw [execEntEnc, svRead_four, complete]

/-- Settles O31: it holds, as the bytes of `RB` are the tag byte, the value's bytes and zeros. -/
theorem entryEncode : Obligations.EntryEncode := by
  refine ⟨decodeOfEncodeIsTheCommand .entEnc rfl, fun s => ⟨_, exec_entEnc s, ?_, ?_, fun k hk => ?_, fun k => ?_⟩⟩
  · rw [← tagByte_code, ← encodedWindow_tag, BitVec.extractLsb'_extractLsb'_of_le (by decide)]
  · have hcode := tagByte_widthCode s.entType (widthOf s.params.w1mask s.svBuf)
    rw [← encodedWindow_tag _ _ s.svBuf, extractLsb'_extractLsb' _ (by decide)] at hcode
    refine hcode.trans ?_
    cases widthOf s.params.w1mask s.svBuf <;> rfl
  · exact encodedWindow_value _ _ _ hk
  · exact encodedWindow_above _ _ _

/-! ### ENT_DEC -/

section Decoding
variable {ver avail : Nat} {s : State}

theorem exec_entDec_of_error {code : FaultCode} (h : unpackEntry ver avail s.portB = .error code) :
    exec (.entDec ver avail) s = .next (raise code 0x34#8 s) := by
  change execEntDec ver avail s = _
  rw [execEntDec, h]
  rfl

/-- A version outside 1 to 4 is the first fault ENT_DEC looks for (R176, R255). -/
theorem exec_entDec_unsupported (h : ver < 1 ∨ 4 < ver) :
    exec (.entDec ver avail) s = .next (raise .unsupportedVersion 0x34#8 s) := by
  rcases unpackEntry_cases ver avail s.portB with ⟨-, herr⟩ | ⟨hlo, hhi, -⟩ | ⟨hlo, hhi, -⟩
  · exact exec_entDec_of_error herr
  · omega
  · omega

/-- Of a wire version, ENT_DEC needs the tag and the bytes of the tag's width (R179). -/
theorem exec_entDec_truncated (hlo : 1 ≤ ver) (hhi : ver ≤ 4)
    (h : avail < 1 + widthBytes (decodeTag ver (windowByte s.portB 0)).2) :
    exec (.entDec ver avail) s = .next (raise .truncatedInput 0x34#8 s) := by
  rcases unpackEntry_cases ver avail s.portB with ⟨hver, -⟩ | ⟨-, -, -, herr⟩ | ⟨-, -, henough, -⟩
  · omega
  · exact exec_entDec_of_error herr
  · omega

/-- With those bytes there it loads the entry whole (R180, R181). -/
theorem exec_entDec_load (hlo : 1 ≤ ver) (hhi : ver ≤ 4) {ty : BitVec 7} {w : Width}
    (htag : decodeTag ver (windowByte s.portB 0) = (ty, w)) (h : 1 + widthBytes w ≤ avail)
    {buf : Word} (hbuf : svWrite (widthBytes w) (windowValue s.portB) 0#32 = buf) :
    exec (.entDec ver avail) s = .next
      { s with
        entType := ty
        svBuf := buf
        svSize := BitVec.ofNat 3 (widthBytes w)
        resp := some { rlen := BitVec.ofNat 3 (1 + widthBytes w) } } := by
  have hw := widthBytes_le_four w
  subst hbuf
  rcases unpackEntry_cases ver avail s.portB with ⟨hver, -⟩ | ⟨-, -, hfew, -⟩ | ⟨-, -, -, hok⟩
  · omega
  · simp only [htag] at hfew
    omega
  · change execEntDec ver avail s = _
    rw [execEntDec, hok, htag]
    rfl

end Decoding

/-- Versions 1 to 3 read the type off bits 6:0 of the tag and the width off bit 7 (R83, R177). -/
theorem decodeTag_of_le_three {ver : Nat} (hver : ver ≤ 3) (t : Byte) :
    decodeTag ver t = (t.extractLsb' 0 7, if t.getLsbD 7 then .w0 else .w4) := by
  have hread : ∀ t : Byte, (t &&& 0x7F#8).setWidth 7 = t.extractLsb' 0 7 ∧
      (t.extractLsb' 7 1 = 1 ↔ t.getLsbD 7 = true) := by decide
  obtain ⟨htype, hbit⟩ := hread t
  simp only [decodeTag, hver, if_true, htype, hbit]

/-- Settles O32: it holds, as bit 7 of the tag says whether four value bytes follow. -/
theorem entryDecodeVersions1To3 : Obligations.EntryDecodeVersions1To3 := by
  intro s ver avail hlo hhi t
  have htag {bit : Bool} (ht : t.getLsbD 7 = bit) :
      decodeTag ver t = (t.extractLsb' 0 7, if bit then .w0 else .w4) := by
    rw [decodeTag_of_le_three hhi, ht]
  have hver : ver ≤ 4 := by omega
  refine ⟨fun ht havail => ?_, fun ht havail => ?_⟩
  · exact exec_entDec_load hlo hver (htag ht) havail rfl
  · exact exec_entDec_load hlo hver (htag ht) havail (svWrite_four _ _)

/-- Settles O33: it holds, as the width code says how many value bytes follow the tag. -/
theorem entryDecodeVersion4 : Obligations.EntryDecodeVersion4 := by
  intro s avail t type
  have htag {c : BitVec 2} (ht : t.extractLsb' 6 2 = c) : decodeTag 4 t = (type, widthOfCode c) := by
    rw [decodeTag_four, ht, ← BitVec.ofNat_toNat, ← BitVec.ofNat_add]
  refine ⟨fun ht havail => ?_, fun ht havail => ?_, fun ht havail => ?_, fun ht havail => ?_⟩
  · exact exec_entDec_load (by decide) (by decide) (htag ht) havail rfl
  · exact exec_entDec_load (by decide) (by decide) (htag ht) havail (svWrite_one_windowValue _)
  · exact exec_entDec_load (by decide) (by decide) (htag ht) havail (svWrite_two_windowValue _)
  · exact exec_entDec_load (by decide) (by decide) (htag ht) havail (svWrite_four _ _)

/-- What a fault of ENT_DEC leaves: `STATUS` by R253, the code on `RST`, and one more entry in the model's record. -/
theorem exec_entDec_reports {ver avail : Nat} {s : State} {code : FaultCode}
    (h : exec (.entDec ver avail) s = .next (raise code 0x34#8 s)) : ∃ fl, exec (.entDec ver avail) s = .next
      { s with
        status := if s.status.fpend then s.status else { fcode := faultCode code, fpend := true, fopc := 0x34#8 }
        resp := some { rst := faultCode code }
        faultLog := fl } :=
  ⟨_, h⟩

/-- Settles O34: it holds, since a version out of range, or a wire version with too few bytes for its tag,
makes ENT_DEC one `raise`. -/
theorem entryDecodeFaults : Obligations.EntryDecodeFaults := by
  intro s ver avail faults t
  have truncated (hlo : 1 ≤ ver) (hhi : ver ≤ 4) {w : Width} (hw : (decodeTag ver t).2 = w)
      (h : avail < 1 + widthBytes w) : faults 3#4 := by
    subst hw
    exact exec_entDec_reports (exec_entDec_truncated hlo hhi h)
  refine ⟨fun h => exec_entDec_reports (exec_entDec_unsupported h), fun hlo hhi h => ?_, fun hlo hhi ht h => ?_, ?_⟩
  · exact truncated hlo hhi rfl (by omega)
  · exact truncated hlo (by omega) (w := .w4) (by rw [decodeTag_of_le_three hhi, ht]; rfl) h
  · rintro rfl hfew
    have hw {c : BitVec 2} (ht : t.extractLsb' 6 2 = c) : (decodeTag 4 t).2 = widthOfCode c := by
      rw [decodeTag_four, ht]
    obtain ⟨ht, h⟩ | ⟨ht, h⟩ | ⟨ht, h⟩ := hfew <;> exact truncated (by decide) (by decide) (hw ht) h

/-! ### The round trip -/

/-- The tag byte gives the width back, and the type with 64 added where it was below 64 (R85). -/
theorem decodeTag_tagByte_eq_ite (ty : BitVec 7) (w : Width) :
    decodeTag 4 (tagByte ty w) = (if 64 ≤ ty.toNat then ty else ty + 64, w) := by
  obtain ⟨-, -, hw, hhigh, hlow⟩ := typeCodeThroughTheTag ty w
  refine Prod.ext ?_ hw
  split
  next h => exact hhigh h
  next h => exact hlow (by omega)

/-- An ENT_DEC of version 4 whose window starts with an entry's bytes loads the bytes of the width from the value. -/
theorem exec_entDec_encoded {ty : BitVec 7} {w : Width} {raw : Word} {u : State} {avail : Nat}
    (havail : 1 + widthBytes w ≤ avail)
    (hbytes : ∀ k, k < 1 + widthBytes w →
      u.portB.extractLsb' (8 * k) 8 = (windowOfBytes (entryBytes ty w raw)).extractLsb' (8 * k) 8) :
    exec (.entDec 4 avail) u = .next
      { u with
        entType := if 64 ≤ ty.toNat then ty else ty + 64
        svBuf := svWrite (widthBytes w) raw 0#32
        svSize := BitVec.ofNat 3 (widthBytes w)
        resp := some { rlen := BitVec.ofNat 3 (1 + widthBytes w) } } := by
  have htag : windowByte u.portB 0 = tagByte ty w := (hbytes 0 (by omega)).trans (encodedWindow_tag ty w raw)
  have hvalue : ∀ k, k < widthBytes w → svByte (windowValue u.portB) k = svByte raw k := fun k hk => by
    have hw := widthBytes_le_four w
    rw [svByte_windowValue _ (by omega), hbytes _ (by omega), encodedWindow_value _ _ _ hk]
  refine exec_entDec_load (by decide) (by decide) ?_ havail (svWrite_congr 0#32 hvalue)
  rw [htag, decodeTag_tagByte_eq_ite]

/-- Settles O35: it holds, since under the default mask the value fits its width, so that writing those bytes over
zeros gives it whole; under the mask 0xFE the value 1 has width 0. -/
theorem entryRoundTrip : Obligations.EntryRoundTrip := by
  intro s u
  refine ⟨_, exec_entEnc s, fun avail havail hbytes => ?_⟩
  simp only [response_eq, Option.getD_some, rlen_toNat] at havail hbytes ⊢
  have hdec := exec_entDec_encoded havail hbytes
  refine ⟨fun hmask => ?_, fun hmask hone => ⟨_, hdec, ?_⟩⟩
  · rw [hmask] at hdec ⊢
    rwa [svWrite_of_fits _ (toNat_lt_of_widthOf_ff s.svBuf)] at hdec
  · have hw : widthOf s.params.w1mask s.svBuf = .w0 := by
      rw [hmask, hone]
      decide
    rw [hw]
    exact ⟨rfl, rfl⟩

/-! ### The type and the empty entry -/

/-- Settles O29: it holds, since none of the three commands checks anything. -/
theorem entryClearAndTypeAccess : Obligations.EntryClearAndTypeAccess :=
  ⟨decodeOfEncodeIsTheCommand .entClr rfl, decodeOfEncodeIsTheCommand .entWrType rfl,
    decodeOfEncodeIsTheCommand .entRdType rfl, fun s => ⟨rfl, rfl, complete_answer rfl s⟩⟩

end Sys2Proof.Machine
end

section
/-! The frame destuffer (43_frame_destuffer.md) command by command: what each kind of byte makes of the scan and of
`DSO`, when a step delivers a frame, and the stuffed stream under PLAIN. -/

namespace Sys2Proof.Machine

/-! ### Numbers and flags of the scan state -/

theorem add_one_eq_ofNat {n : Nat} (x : BitVec n) : x + 1 = BitVec.ofNat n (x.toNat + 1) := by
  rw [BitVec.ofNat_add, BitVec.ofNat_toNat, BitVec.setWidth_eq]
  rfl

theorem sub_one_eq_ofNat {b : Byte} (hb : b ≠ 0) : b - 1 = BitVec.ofNat 8 (b.toNat - 1) := by
  bv_omega

theorem zeroFlagAfterLength_classic (b : Byte) : zeroFlagAfterLength .classic b = decide (b ≠ 0xFF#8) := by
  rw [decide_not]
  rfl

/-! ### The stream under PLAIN -/

/-- Under PLAIN a zero stands between the data of any two blocks (R86). -/
theorem joinBlocks_plain (blocks : List (List Byte)) :
    joinBlocks .plain blocks = List.intercalate [0x00#8] blocks := by
  induction blocks with
  | nil => rfl
  | cons d ds ih =>
    cases ds with
    | nil => simp [joinBlocks]
    | cons e ds => 
      rw [joinBlocks, ih, List.intercalate_cons_cons]
      rfl

/-- Settles O45: it holds, as the law for either setting, read under PLAIN. -/
theorem plainFrameDecoding : Obligations.PlainFrameDecoding := by
  intro s blocks hplain
  have hdecoding := stuffedFrameDecoding s blocks
  rwa [hplain, joinBlocks_plain] at hdecoding

/-! ### The byte rules -/

/-- Settles O38: it holds, since the response of a delimiter is the frame port exactly above 3 bytes. -/
theorem delimiterEndsTheFrame : Obligations.DelimiterEndsTheFrame := by
  refine ⟨decodeOfEncodeIsTheCommand .dsPush rfl, fun s hrest hb hcursor => ?_⟩
  have hpush : exec .dsPush s = _ := execDsPush_delimiter hrest hb hcursor
  refine ⟨fun hlong => ?_, fun hshort => ?_⟩
  · rw [hpush, delimiterResponse, if_pos hlong, frameResponse]
  · rw [hpush, delimiterResponse, if_neg (Nat.not_lt.2 hshort)]

/-- A command that stores one byte at the cursor and begins or counts down a block changes no other byte. -/
theorem exec_stores_at_cursor {i : Instr} {v : Byte} {s : State} {rest : BitVec 8} {zf : Bool}
    (h : exec i s = .next { storeByte v s with dsRest := rest, dsZf := zf, resp := some {} }) :
    ∃ t, exec i s = .next t ∧
      t = { s with dso := t.dso, dsWc := BitVec.ofNat 9 (s.dsWc.toNat + 1),
                   dsRest := rest, dsZf := zf, resp := some {} } ∧
      dsoByte t s.dsWc.toNat = v ∧ ∀ a, a ≠ s.dsWc.toNat → dsoByte t a = dsoByte s a := by
  refine ⟨_, h, ?_, dsoByte_storeByte_same v s, dsoByte_storeByte_other v s⟩
  rw [← add_one_eq_ofNat]
  rfl

/-- With no zero due, a length byte begins its block even where the scratch buffer is full (R202). -/
theorem execDsPush_length_without_zero {s : State} (hrest : s.dsRest = 0) (hb : operandByte s ≠ 0)
    (hzf : s.dsZf = false) : execDsPush s = startBlock (operandByte s) s := by
  simp only [execDsPush, hrest, hb, and_false, if_false, if_true, pushLength, hzf, Bool.false_eq_true]

/-- Settles O39: it holds, since the zero that is due is all a length byte stores. -/
theorem lengthByteStartsABlock : Obligations.LengthByteStartsABlock := by
  intro s hrest hb b zf
  have hzf : zeroFlagAfterLength s.params.cobsFF b = zf := by
    cases hp : s.params.cobsFF with
    | plain =>
      simp only [zf, hp]
      rfl
    | classic => simp only [zf, hp, zeroFlagAfterLength_classic]
  rw [← hzf, ← sub_one_eq_ofNat hb]
  refine ⟨fun hclear => ?_, fun hset hroom => ?_⟩
  · exact execDsPush_length_without_zero hrest hb hclear
  · have hpush : exec .dsPush s = startBlock b (writeDueZero s) :=
      execDsPush_length hrest hb (by rw [hset]; exact hroom)
    rw [writeDueZero, if_pos hset] at hpush
    exact exec_stores_at_cursor hpush

/-- Settles O40: it holds, since a data byte is stored as it stands. -/
theorem dataByteIsCopied : Obligations.DataByteIsCopied := by
  intro s hrest hroom
  rw [← sub_one_eq_ofNat hrest]
  exact exec_stores_at_cursor (execDsPush_data hrest hroom)

/-- A byte that a rule would put behind a full scratch buffer takes `FrameOverflow` (R204). -/
theorem execDsPush_overflow {s : State} (hfull : putIndex s = dsoSize) (hput : wouldPut s) :
    execDsPush s = .next (raise .frameOverflow 0x41#8 s) := by
  obtain ⟨t, ht⟩ := execDsPush_goes_on (s := s) hfull.le
  rcases execDsPush_cases ht with
    ⟨hrest, hb, -⟩ | ⟨hrest, -, hzf, -⟩ | ⟨-, -, -, hroom, -⟩ | ⟨-, hroom, -⟩ | ⟨-, -, rfl⟩
  · simp [wouldPut, hrest, hb] at hput
  · simp [wouldPut, hrest, hzf] at hput
  · omega
  · omega
  · exact ht

/-- Settles O41: it holds, since the fault is one `raise`, and a delimiter puts nothing. -/
theorem overflowIsPrecise : Obligations.OverflowIsPrecise := by
  intro s hfull
  have hcursor : s.dsWc.toNat = 256 := by rw [hfull]; rfl
  refine ⟨fun hput => ⟨_, execDsPush_overflow hcursor hput⟩, fun hrest hb => ?_⟩
  have hdelimiter := (delimiterEndsTheFrame.2 s hrest hb hcursor.le).1 (by omega)
  exact ⟨_, hdelimiter, by rw [hcursor, hfull]⟩

/-! ### The frames delivered -/

/-- The frame port shows nothing (R77). -/
def QuietFrame (r : Response) : Prop := r.fv = false ∧ r.flen = 0 ∧ r.fdata = []

/-- DS_PUSH runs with a delimiter at the end of a frame of more than 3 bytes (R201). -/
structure FrameEnds (s : State) : Prop where
  rest : s.dsRest = 0
  delimiter : operandByte s = 0
  cursor : s.dsWc.toNat ≤ dsoSize
  long : 3 < s.dsWc.toNat

/-- R206: DS_PUSH delivers the frame that its byte ends, or nothing. -/
theorem execDsPush_frame {s t : State} (h : execDsPush s = .next t) :
    FrameEnds s ∧ t.response = frameResponse s ∨ QuietFrame t.response := by
  rcases execDsPush_cases h with
    ⟨hrest, hb, hcursor, rfl⟩ | ⟨-, -, -, rfl⟩ | ⟨-, -, -, -, rfl⟩ | ⟨-, -, rfl⟩ | ⟨-, -, rfl⟩
  · by_cases hlong : 3 < s.dsWc.toNat
    · exact .inl ⟨⟨hrest, hb, hcursor, hlong⟩, if_pos hlong⟩
    · have hnone : delimiterResponse s = {} := if_neg hlong
      exact .inr (by simp [QuietFrame, hnone])
  all_goals exact .inr ⟨rfl, rfl, rfl⟩

/-- R208: no other command drives the frame port. -/
theorem exec_quietFrame {i : Instr} {s t : State} (hpush : i ≠ .dsPush) (h : exec i s = .next t) :
    QuietFrame t.response := by
  cases i with
  | dsPush => exact absurd rfl hpush
  | entDec ver avail =>
    rcases execEntDec_cases ver avail s with ⟨_, -, hran⟩ | ⟨_, _, -, hran⟩
    all_goals
      obtain rfl := Host.Outcome.next.inj (hran.symm.trans h)
      exact ⟨rfl, rfl, rfl⟩
  | _ =>
    obtain rfl := Host.Outcome.next.inj h
    exact ⟨rfl, rfl, rfl⟩

/-- A step delivers the frame that its DS_PUSH ends, or nothing (R206, R208). -/
theorem step_frame {s t : State} (h : step s = .next t) :
    (∃ c rest, s.pending = c :: rest ∧ c.cmd = 0x00000041#32 ∧ FrameEnds (sample c rest s) ∧
      t.response = frameResponse s) ∨ QuietFrame t.response := by
  rcases step_cases h with ⟨-, rfl⟩ | ⟨c, rest, i, u, hp, hi, hu, rfl⟩ | ⟨c, rest, e, -, -, rfl⟩
  · exact .inr ⟨rfl, rfl, rfl⟩
  · by_cases hpush : i = .dsPush
    · subst hpush
      have hcmd : c.cmd = 0x00000041#32 := (decodedWordsAreEncodings _ _ hi).2.symm
      exact (execDsPush_frame hu).imp_left fun ⟨hends, hresp⟩ => ⟨c, rest, hp, hcmd, hends, hresp⟩
    · exact .inr (exec_quietFrame (t := u) hpush hu)
  · exact .inr ⟨rfl, rfl, rfl⟩

/-- Settles O43: it holds, by the two things a step can do to the frame port. -/
theorem framesOnlyAtDelimiters : Obligations.FramesOnlyAtDelimiters := by
  intro s t c rest hp h
  rcases step_frame h with ⟨c', rest', hp', hcmd, ⟨hrest, hb, -, hlong⟩, hresp⟩ | ⟨hfv, hquiet⟩
  · obtain ⟨rfl, rfl⟩ := List.cons.inj (hp.symm.trans hp')
    rw [hresp]
    exact ⟨fun _ => ⟨hcmd, hb, hrest, hlong⟩, fun hquiet => absurd hquiet.symm Bool.false_ne_true⟩
  · exact ⟨fun hdelivered => absurd (hfv.symm.trans hdelivered) Bool.false_ne_true, fun _ => hquiet⟩

/-- Where every byte below the cursor was written, the frame port shows the bytes written (R24). -/
theorem frameResponse_read {s : State} (hs : s.Inv) {k : Nat} (hk : k < s.dsWc.toNat) :
    s.dso.read k = (frameResponse s).fdata[k]? := by
  obtain ⟨v, hv⟩ := Option.isSome_iff_exists.1 (hs.frameWritten k hk)
  simp [frameResponse, hk, hv, dsoByte_of_read hv]

/-- Settles O44: it holds, since a frame that ends is above 3 bytes and the invariant bounds and covers the bytes
below the cursor. -/
theorem deliveredFramesAreWritten : Obligations.DeliveredFramesAreWritten := by
  intro s t hs h hfv
  rcases step_frame h with ⟨c, rest, -, -, ⟨-, -, hcursor, hlong⟩, hresp⟩ | ⟨hquiet, -⟩
  · rw [hresp]
    exact ⟨hlong, hcursor, by simp [frameResponse], fun k hk => frameResponse_read hs hk⟩
  · exact absurd (hquiet.symm.trans hfv) Bool.false_ne_true

/-! ### DS_RST and DS_STAT -/

/-- Settles O37: it holds, since DS_RST names the scan state alone. -/
theorem scanReset : Obligations.ScanReset := ⟨decodeOfEncodeIsTheCommand .dsRst rfl, fun _ => rfl⟩

section ScanWord
variable (s : State)

theorem scanWord_cursor : (scanWord s).extractLsb' 0 9 = s.dsWc := by
  ext i hi
  simp only [scanWord]
  interval_cases i <;> simp

theorem scanWord_rest : (scanWord s).extractLsb' 16 8 = s.dsRest := by
  ext i hi
  simp only [scanWord]
  interval_cases i <;> simp

theorem scanWord_zeroFlag : (scanWord s).getLsbD 24 = s.dsZf := by
  simp [scanWord]

theorem scanWord_above_cursor : (scanWord s).extractLsb' 9 7 = 0 := by
  ext i hi
  simp only [scanWord]
  interval_cases i <;> simp

theorem scanWord_above_zeroFlag : (scanWord s).extractLsb' 25 7 = 0 := by
  ext i hi
  simp only [scanWord]
  interval_cases i <;> simp

end ScanWord

/-- Settles O42: it holds, by the fields of the word that DS_STAT answers. -/
theorem scanStateRead : Obligations.ScanStateRead :=
  ⟨decodeOfEncodeIsTheCommand .dsStat rfl, fun s => ⟨scanWord s, rfl, scanWord_cursor s, scanWord_above_cursor s,
    scanWord_rest s, scanWord_zeroFlag s, scanWord_above_zeroFlag s⟩⟩

end Sys2Proof.Machine
end

section
/-! The system commands (44_system.md): the word STAT_RD answers by its fields, and what SYS_RST leaves of the state. -/

namespace Sys2Proof.Machine

/-! ### NOP, STAT_RD and STAT_CLR -/

section StatusWord
variable (st : Status)

theorem statusWord_code : (statusWord st).extractLsb' 0 4 = st.fcode := by
  ext i hi
  simp only [statusWord]
  interval_cases i <;> simp

theorem statusWord_faultPending : (statusWord st).getLsbD 4 = st.fpend := by
  simp [statusWord]

theorem statusWord_above_faultPending : (statusWord st).extractLsb' 5 3 = 0 := by
  ext i hi
  simp only [statusWord]
  interval_cases i <;> simp

theorem statusWord_opcode : (statusWord st).extractLsb' 8 8 = st.fopc := by
  ext i hi
  simp only [statusWord]
  interval_cases i <;> simp

theorem statusWord_above_opcode : (statusWord st).extractLsb' 16 16 = 0 := by
  ext i hi
  simp only [statusWord]
  interval_cases i <;> simp

end StatusWord

@[simp] theorem statusWord_zero : statusWord Status.zero = 0 := rfl

theorem exec_statRd (s : State) : exec .statRd s = .next { s with resp := some { r := statusWord s.status } } := rfl

theorem exec_statClr (s : State) : exec .statClr s = .next { clearStatus s with resp := some {} } := rfl

/-- A clear record reads as the word 0 (R232, R233). -/
theorem exec_statRd_of_clear {s : State} (h : s.status = Status.zero) :
    exec .statRd s = .next { s with resp := some { r := 0 } } := by
  rw [exec_statRd, h, statusWord_zero]

/-- Settles O47: it holds, by the fields of the word that STAT_RD answers; STAT_CLR leaves the record whose word is 0. -/
theorem nopAndStatusCommands : Obligations.NopAndStatusCommands := by
  refine ⟨decodeOfEncodeIsTheCommand .nop rfl, decodeOfEncodeIsTheCommand .statRd rfl,
    decodeOfEncodeIsTheCommand .statClr rfl, fun s => ⟨rfl, ⟨statusWord s.status, exec_statRd s, ?_⟩, ?_⟩⟩
  · exact ⟨statusWord_code _, statusWord_faultPending _, statusWord_above_faultPending _, statusWord_opcode _,
      statusWord_above_opcode _⟩
  · exact ⟨_, exec_statClr s, rfl, _, exec_statRd_of_clear (clearStatus_status s), rfl⟩

/-! ### SYS_RST -/

/-- R231: what SYS_RST leaves is the reset state, but for what is no state element (the parameters, the ports and
what is issued) and for the model's own records, which go on (logs 5 and 9). -/
theorem resetElements_eq_reset (s : State) : resetElements s =
    { State.reset with
      params := s.params, pending := s.pending, operands := s.operands, resp := s.resp
      dsoEpoch := s.dsoEpoch + 1, faultLog := s.faultLog } := rfl

theorem exec_sysRst (s : State) : exec .sysRst s = .next { resetElements s with resp := some {} } := rfl

/-- Settles O48: it holds, since SYS_RST checks nothing and leaves the reset state's elements. -/
theorem systemReset : Obligations.SystemReset := by
  refine ⟨decodeOfEncodeIsTheCommand .sysRst rfl, fun s => ⟨_, exec_sysRst s, ?_⟩⟩
  rw [resetElements_eq_reset]
  exact ⟨rfl, rfl, rfl, rfl, rfl, rfl, rfl, rfl, rfl, rfl⟩

end Sys2Proof.Machine
end

section
/-! The faults (60_exceptions.md): what a fault leaves unchanged (R252) and what it records (R253), and the cause of
each code in the order of R255, first for a command and then for the word of a step. -/

namespace Sys2Proof.Machine

/-! ### What a fault leaves (R252, R253) -/

/-- A step that reports a fault took it by `raise`, under the `OPC` of its word. -/
theorem step_raises_of_rst {s t : State} {c : Command} {rest : List Command} (hp : s.pending = c :: rest)
    (h : step s = .next t) (hrst : t.response.rst ≠ 0) :
    ∃ code, t = releaseOperands (raise code (opcField c.cmd) (sample c rest s)) :=
  (step_completes_or_raises hp h).resolve_left fun hcompletes => hrst hcompletes.rst

/-- Settles O8: it holds, since `raise` touches no state element but `STATUS` and sets no response field but `RST`. -/
theorem faultsArePrecise : Obligations.FaultsArePrecise := by
  intro s t c rest hp h hrst
  obtain ⟨code, rfl⟩ := step_raises_of_rst hp h hrst
  exact ⟨rfl, rfl, rfl, fun _ => rfl, rfl, rfl, rfl, rfl, rfl, rfl⟩

section RecordFault
variable {code : FaultCode} {opc : Byte} {st : Status}

theorem recordFault_of_pending (h : st.fpend = true) : recordFault code opc st = st := if_pos h

theorem recordFault_of_clear (h : st.fpend = false) :
    recordFault code opc st = { fcode := faultCode code, fpend := true, fopc := opc } :=
  if_neg (Bool.eq_false_iff.1 h)

end RecordFault

/-- Settles O9: it holds, since `recordFault` writes `STATUS` only where no fault is pending. -/
theorem firstFaultIsKept : Obligations.FirstFaultIsKept := by
  intro s t c rest hp h hrst
  obtain ⟨code, rfl⟩ := step_raises_of_rst hp h hrst
  exact ⟨recordFault_of_pending, recordFault_of_clear⟩

/-- Settles O11: it holds, since every command but ENT_DEC and DS_PUSH completes in every state. -/
theorem otherCommandsNeverFault : Obligations.OtherCommandsNeverFault := by
  intro i s hdec hpush
  obtain ⟨t, ht, hcompletes⟩ := exec_completes i s hdec hpush
  exact ⟨t, ht, hcompletes.rst, hcompletes.faultLog⟩

/-! ### The causes of a command's faults (R250, R255) -/

theorem faultCode_injective : Function.Injective faultCode := by
  intro code code' h
  revert h
  cases code <;> cases code' <;> decide

/-- What makes the command `i` raise a code in the state `s`: ENT_DEC its version first and then the bytes that
are there (R176, R179), DS_PUSH the full scratch buffer (R204). A command that was decoded has a legal word. -/
def FaultCause (i : Instr) (s : State) : FaultCode → Prop
  | .illegalCommand => False
  | .unsupportedVersion => ∃ ver avail, i = .entDec ver avail ∧ ¬ (1 ≤ ver ∧ ver ≤ 4)
  | .truncatedInput => ∃ ver avail, i = .entDec ver avail ∧ 1 ≤ ver ∧ ver ≤ 4 ∧
      (avail = 0 ∨ min avail 5 < 1 + widthBytes (decodeTag ver (windowByte s.portB 0)).2)
  | .frameOverflow => i = .dsPush ∧ putIndex s = dsoSize ∧ wouldPut s

theorem exec_raises_of_faultCause {i : Instr} {s : State} {code : FaultCode} (h : FaultCause i s code) :
    exec i s = .next (raise code (opcodeOf i) s) := by
  cases code with
  | illegalCommand => exact h.elim
  | unsupportedVersion =>
    obtain ⟨ver, avail, rfl, hver⟩ := h
    exact exec_entDec_unsupported (by omega)
  | truncatedInput =>
    obtain ⟨ver, avail, rfl, hlo, hhi, hfew⟩ := h
    have hwidth := widthBytes_le_four (decodeTag ver (windowByte s.portB 0)).2
    exact exec_entDec_truncated hlo hhi (by omega)
  | frameOverflow =>
    obtain ⟨rfl, hfull, hput⟩ := h
    exact execDsPush_overflow hfull hput

theorem faultCause_of_execEntDec {ver avail : Nat} {s t : State} (h : execEntDec ver avail s = .next t)
    (hrst : t.response.rst ≠ 0) : ∃ code, FaultCause (.entDec ver avail) s code := by
  rcases unpackEntry_cases ver avail s.portB with ⟨hver, -⟩ | ⟨hlo, hhi, hfew, -⟩ | ⟨-, -, -, hok⟩
  · exact ⟨.unsupportedVersion, ver, avail, rfl, by omega⟩
  · exact ⟨.truncatedInput, ver, avail, rfl, hlo, hhi, .inr hfew⟩
  · rw [execEntDec, hok] at h
    obtain rfl := Host.Outcome.next.inj h
    exact absurd rfl hrst

theorem faultCause_of_execDsPush {s t : State} (h : execDsPush s = .next t) (hrst : t.response.rst ≠ 0) :
    ∃ code, FaultCause .dsPush s code := by
  rcases execDsPush_cases h with
    ⟨-, -, -, rfl⟩ | ⟨-, -, -, rfl⟩ | ⟨-, -, -, -, rfl⟩ | ⟨-, -, rfl⟩ | ⟨hput, hfull, -⟩
  · exact absurd (delimiterResponse_rst s) hrst
  · exact absurd rfl hrst
  · exact absurd rfl hrst
  · exact absurd rfl hrst
  · exact ⟨.frameOverflow, rfl, hfull, hput⟩

theorem faultCause_of_exec {i : Instr} {s t : State} (h : exec i s = .next t) (hrst : t.response.rst ≠ 0) :
    ∃ code, FaultCause i s code := by
  by_cases hdec : ∃ ver avail, i = .entDec ver avail
  · obtain ⟨ver, avail, rfl⟩ := hdec
    exact faultCause_of_execEntDec h hrst
  · by_cases hpush : i = .dsPush
    · subst hpush
      exact faultCause_of_execDsPush h hrst
    · obtain ⟨u, hu, hcompletes⟩ := exec_completes i s (fun ver avail hi => hdec ⟨ver, avail, hi⟩) hpush
      obtain rfl := Host.Outcome.next.inj (h.symm.trans hu)
      exact absurd hcompletes.rst hrst

/-- A command reports a code exactly where the code's cause holds; so no two causes hold together. -/
theorem exec_rst_eq_faultCode_iff {i : Instr} {s t : State} (h : exec i s = .next t) (code : FaultCode) :
    t.response.rst = faultCode code ↔ FaultCause i s code := by
  have rst_of_cause {code : FaultCode} (hcause : FaultCause i s code) : t.response.rst = faultCode code := by
    obtain rfl := Host.Outcome.next.inj (h.symm.trans (exec_raises_of_faultCause hcause))
    rfl
  refine ⟨fun hcode => ?_, rst_of_cause⟩
  obtain ⟨code', hcause⟩ := faultCause_of_exec h (hcode ▸ faultCode_ne_zero code)
  exact faultCode_injective ((rst_of_cause hcause).symm.trans hcode) ▸ hcause

/-! ### The causes of a step's faults by the command word -/

section Word
variable {w : Word} {i : Instr}

/-- A legal word is ENT_DEC with its own two fields exactly where its `OPC` is 0x34 (R71, R74). -/
theorem exists_entDec_and_iff (hi : decode w = .ok i) (p : Nat → Nat → Prop) :
    (∃ ver avail, i = .entDec ver avail ∧ p ver avail) ↔
      opcField w = 0x34#8 ∧ p (verField w).toNat (availField w).toNat := by
  obtain ⟨-, ⟨hopc, rfl⟩ | ⟨hopc, -⟩⟩ := decode_eq_ok_iff.1 hi
  · refine ⟨?_, fun ⟨_, hfields⟩ => ⟨_, _, rfl, hfields⟩⟩
    rintro ⟨ver, avail, ⟨⟩, hfields⟩
    exact ⟨hopc, hfields⟩
  · refine iff_of_false ?_ fun h => hopc h.1
    rintro ⟨ver, avail, rfl, -⟩
    exact hopc (opcodeOf_of_decode hi).symm

theorem eq_dsPush_iff (hi : decode w = .ok i) : i = .dsPush ↔ opcField w = 0x41#8 := by
  rw [← opcodeOf_of_decode hi]
  cases i <;> simp [opcodeOf]

end Word

section Step
variable {s t : State} {c : Command} {rest : List Command}

theorem step_rst_of_decode_error {e : DecodeError} (hp : s.pending = c :: rest) (he : decode c.cmd = .error e)
    (h : step s = .next t) : t.response.rst = faultCode .illegalCommand := by
  simp only [step, hp, he] at h
  obtain rfl := Host.Outcome.next.inj h
  rfl

theorem step_rst_eq_faultCode_iff {i : Instr} (hp : s.pending = c :: rest) (hi : decode c.cmd = .ok i)
    (h : step s = .next t) (code : FaultCode) :
    t.response.rst = faultCode code ↔ FaultCause i (sample c rest s) code := by
  obtain ⟨u, hu, rfl⟩ := (endStep_eq_next _ _).1 ((step_of_decode hp hi).symm.trans h)
  exact exec_rst_eq_faultCode_iff hu code

/-- R250: no code above 4 occurs. -/
theorem step_rst_le_four (hp : s.pending = c :: rest) (h : step s = .next t) : t.response.rst.toNat ≤ 4 := by
  rcases step_completes_or_raises hp h with hcompletes | ⟨code, rfl⟩
  · rw [hcompletes.rst]
    exact Nat.zero_le 4
  · exact faultCode_le_four code

end Step

/-- Settles O10: it holds, since a refused word reports code 1, and a decoded command reports a code exactly where
the code's cause holds, which the fields of its word say. -/
theorem faultCodesHaveTheirCauses : Obligations.FaultCodesHaveTheirCauses := by
  intro s t c rest hp h opc ver avail width legal
  have hillegal := decode_error_iff_illegalWord c.cmd
  cases hd : decode c.cmd with
  | error e =>
    have hw : IllegalWord c.cmd := hillegal.1 ⟨e, hd⟩
    have hrst : t.response.rst = 1#4 := step_rst_of_decode_error hp hd h
    rw [hrst]
    simp [legal, hw]
  | ok i =>
    have hlegal : legal := fun hw => by
      obtain ⟨e, he⟩ := hillegal.2 hw
      simp [hd] at he
    have hcause := step_rst_eq_faultCode_iff hp hd h
    have hfull : putIndex (sample c rest s) = dsoSize ↔ s.dsWc = 256#9 := BitVec.toNat_inj (y := 256#9)
    refine ⟨?_, ?_, ?_, ?_, step_rst_le_four hp h⟩
    · exact (hcause .illegalCommand).trans (iff_of_false id hlegal)
    · rw [and_iff_right hlegal]
      exact (hcause .unsupportedVersion).trans (exists_entDec_and_iff hd _)
    · rw [and_iff_right hlegal]
      exact (hcause .truncatedInput).trans (exists_entDec_and_iff hd _)
    · rw [and_iff_right hlegal, ← hfull]
      exact (hcause .frameOverflow).trans (and_congr_left' (eq_dsPush_iff hd))

end Sys2Proof.Machine
end

section
/-! Reset and the entry codec together (70_reset_and_hazards.md R281): the empty Entry's wire form. -/

namespace Sys2Proof.Machine

/-- The value 0 takes no bytes, whatever the mask leaves out (R173). -/
theorem widthOf_zero (m : W1Mask) : widthOf m 0 = .w0 := by cases m <;> rfl

/-- The empty Entry is the tag of type '@' alone (R174, R281). -/
theorem entryBytes_empty : entryBytes 0x40#7 .w0 0 = [0x00#8] := rfl

/-- The empty Entry, '@' with value 0, is encoded as the one byte 0x00 (R281). -/
theorem exec_entEnc_of_empty {s : State} (hvalue : s.svBuf = 0) (htype : s.entType = 0x40#7) :
    exec .entEnc s = .next { s with resp := some { rb := 0x0000000000#40, rlen := 1 } } := by
  rw [exec_entEnc, hvalue, htype, widthOf_zero, entryBytes_empty]
  rfl

/-- Settles O50: it holds, since SYS_RST leaves the Entry empty. -/
theorem encodeAfterReset : Obligations.EncodeAfterReset := fun s =>
  ⟨_, exec_sysRst s, exec_entEnc_of_empty (resetElements_svBuf s) (resetElements_entType s)⟩

end Sys2Proof.Machine
end
